-- ==== Sys2Proof/Word.lean ====
section
/-! DEFINITION. The words of the command port and of the wire, and the small named
values the operands range over (spec/00_scope.md R6, R7). -/

namespace Sys2Proof

/-- A byte: "an unsigned integer 0 to 255" (R7). Every LED index, channel, `count`, `step`,
saturation and value operand is one (R6). -/
abbrev Byte := BitVec 8

/-- A 16-bit operand: `hue` and `ledCount` unsigned, GRADIENT's `start` and `end` two's
complement (R6). -/
abbrev Half := BitVec 16

/-- `ledType`: "RGB: 24-bit per LED, or RGBW: 32-bit per LED" (R6). Also the two values of
`P.CLEAR_COLOR` (R5). -/
inductive LedType where
  | rgb
  | rgbw
deriving DecidableEq, Repr, Inhabited

/-- `colorOrder`: RGB or GRB (R6). -/
inductive ColorOrder where
  | rgb
  | grb
deriving DecidableEq, Repr, Inhabited

/-- The two shift opcodes of the wire protocol, "shift (direction A)" 0xB3 and
"shift (direction B)" 0xB4 (R4, R53). A shift parameter of `P` is one of them (R5). -/
inductive ShiftWire where
  | dirA
  | dirB
deriving DecidableEq, Repr, Inhabited

/-- An RGB triple: an endpoint of GRADIENT, red, green, blue (R6). -/
structure Rgb where
  r : Byte
  g : Byte
  b : Byte
deriving DecidableEq, Repr, Inhabited

/-- The channel-order payload `(p0, p1, p2)`: "a 3-byte permutation of channel positions" (R5,
R48). Which bytes stand for the positions the spec does not say; that no position occurs twice is
all a permutation says without them (DEDUCED, assumption log 19). -/
structure OrderPayload where
  p0 : Byte
  p1 : Byte
  p2 : Byte
  distinct : [p0, p1, p2].Nodup
deriving DecidableEq, Repr

end Sys2Proof
end

