-- ==== Sys2Proof/Config.lean ====
section
/-! DEFINITION. The parameters the source leaves open (spec/00_scope.md R5): the record `P`
and the machine's own, unknown, instance of it. -/

namespace Sys2Proof

/-- The configuration record `P` of R5: "a model takes `P` as an argument and no rule assumes a
value for any field, except the constraints in the third column". Those constraints are carried
by the record: the two type bytes differ, the order payload is a permutation, a shift opcode is one
of two. Each meaning reads it from `State.params`, so a statement over all states
is a statement over all `P` (assumption log 3). -/
structure Params where
  /-- `TYPE_BYTE_RGB` (R47). -/
  typeByteRgb : Byte
  /-- `TYPE_BYTE_RGBW` (R47). -/
  typeByteRgbw : Byte
  /-- The constraint of R5 on the two type bytes. -/
  typeBytesDiffer : typeByteRgb ≠ typeByteRgbw
  /-- `DEFAULT_ORDER` (R61). -/
  defaultOrder : ColorOrder
  /-- `ORDER_PAYLOAD` (R48). -/
  orderPayload : OrderPayload
  /-- `HUE_LOW_FIRST` (R45). -/
  hueLowFirst : Bool
  /-- `OP_SHIFT_DOWN_WIRE`, one of 0xB3 and 0xB4 by its type (R53). -/
  opShiftDownWire : ShiftWire
  /-- `OP_SHIFT_UP_WIRE`, one of 0xB3 and 0xB4 by its type (R53). -/
  opShiftUpWire : ShiftWire
  /-- `CLEAR_COLOR` (R52). -/
  clearColor : LedType
  /-- `T_CMD_US`, microseconds (R26). -/
  tCmdUs : Nat
  /-- `T_LED_US`, microseconds per LED (R86). -/
  tLedUs : Nat
  /-- `T_INIT_US`, microseconds (R59). -/
  tInitUs : Nat
  /-- `T_RST_LOW_US`, microseconds (R88). -/
  tRstLowUs : Nat
  /-- `T_RST_HIGH_US`, microseconds (R88). -/
  tRstHighUs : Nat
  /-- `HAS_RESET_LINE` (R88). -/
  hasResetLine : Bool
deriving DecidableEq, Repr

/-- A parameter record, open: without a body, so nothing in Lean can evaluate it or prove a value
of one of its fields (R5; assumption log 3). Lean asks for proof that a record exists. -/
opaque Config.openParams [Inhabited Params] : Params

/-- The parameters of the machine at hand: the open record. The record shown to exist only shows
that the constraints of R5 can be met; the open one is not known to have any of its values
(assumption log 3). -/
def Config.params : Params :=
  @Config.openParams ⟨{
    typeByteRgb := 0, typeByteRgbw := 1, typeBytesDiffer := by decide
    defaultOrder := .rgb
    orderPayload := { p0 := 0, p1 := 1, p2 := 2, distinct := by decide }
    hueLowFirst := false, opShiftDownWire := .dirA, opShiftUpWire := .dirA, clearColor := .rgb
    tCmdUs := 0, tLedUs := 0, tInitUs := 0, tRstLowUs := 0, tRstHighUs := 0
    hasResetLine := false }⟩

end Sys2Proof
end

