-- ==== Sys2Proof/Machine/Operands.lean ====
section
/-! DEFINITION. The arithmetic primitives and the operand assembly: clamps, rounding, truncating
division, hue and count bytes, index checks, gradient interpolation (spec/00_scope.md R4, R8,
R10; spec/30_encoding.md R45 to R47; spec/45_gradient.md R93, R94). -/

namespace Sys2Proof.Machine

/-- `MAX_LEDS`: "requested LED counts above 256 are clamped to 256" (R4). -/
def maxLeds : Nat := 256

/-- `HUE_MAX`: "hue values above 359 are clamped to 359" (R4). -/
def hueMax : Nat := 359

/-- `clamp_hue(h) = min(h, 359)` (R8). -/
def clampHue (h : Nat) : Nat := min h hueMax

/-- `clamp_count(n) = min(n, 256)` (R8). -/
def clampCount (n : Nat) : Nat := min n maxLeds

/-- `round_even(n) = n + (n mod 2)` (R8). -/
def roundEven (n : Nat) : Nat := n + n % 2

/-- `trunc8(v) = v mod 256`, as a byte (R7). -/
def trunc8 (v : Nat) : Byte := BitVec.ofNat 8 v

/-- `tdiv(a, b)`, integer division "truncating toward zero", for `b > 0` (R8). Lean's `/` on
`Int` is the floor for a positive divisor. -/
def tdiv (a b : Int) : Int := if 0 ≤ a then a / b else -((-a) / b)

/-- The low byte `h'[7:0]` of the clamped hue (R45). -/
def hueLow (hue : Half) : Byte := trunc8 (clampHue hue.toNat % 256)

/-- The high byte `h'[15:8]` of the clamped hue (R45). -/
def hueHigh (hue : Half) : Byte := trunc8 (clampHue hue.toNat / 256)

/-- `hueA`, the hue byte sent first (R45). -/
def hueA (P : Params) (hue : Half) : Byte := if P.hueLowFirst then hueLow hue else hueHigh hue

/-- `hueB`, the hue byte sent second (R45). -/
def hueB (P : Params) (hue : Half) : Byte := if P.hueLowFirst then hueHigh hue else hueLow hue

/-- The count byte of INIT: `trunc8(round_even(clamp_count(ledCount)))` (R46). -/
def countByte (ledCount : Half) : Byte := trunc8 (roundEven (clampCount ledCount.toNat))

/-- `lastIndex` after INIT: the clamped count less one, before rounding (R59). -/
def lastIndexOf (ledCount : Half) : Byte := trunc8 (clampCount ledCount.toNat - 1)

/-- The type byte of INIT (R47). -/
def typeByte (P : Params) : LedType → Byte
  | .rgb => P.typeByteRgb
  | .rgbw => P.typeByteRgbw

/-- Whether INIT sends the RGBORDER frame: "if ledType is RGB and colorOrder ≠ default" (R61). -/
def needsOrderFrame (P : Params) (t : LedType) (o : ColorOrder) : Bool :=
  decide (t = .rgb) && decide (o ≠ P.defaultOrder)

/-- `index_ok(i) = (i ≤ CFG.lastIndex)` (R10). -/
def indexOk (last i : Byte) : Bool := decide (i.toNat ≤ last.toNat)

/-- `range_ok(start, end)`: not (start > end or end > lastIndex or start > lastIndex), the three
tests the source lists (R10). -/
def rangeOk (last startIdx endIdx : Byte) : Bool :=
  !(decide (endIdx.toNat < startIdx.toNat) || decide (last.toNat < endIdx.toNat)
    || decide (last.toNat < startIdx.toNat))

/-- The delay SHOW adds after its transaction: `P.T_LED_US * (CFG.lastIndex + 1)` (R86, R87). -/
def showDelay (P : Params) (last : Byte) : Nat := P.tLedUs * (last.toNat + 1)

/-- `s_lo = max(0, -start)` (R93). -/
def gradientLo (startIdx : Int) : Int := max 0 (-startIdx)

/-- `s_hi = steps - max(0, end - CFG.lastIndex)`, a signed value (R93). -/
def gradientHi (startIdx endIdx : Int) (last : Byte) : Int :=
  (endIdx - startIdx) - max 0 (endIdx - last.toNat)

/-- The emitted values of `s`, ascending from `s_lo` to `s_hi` inclusive, none when
`s_lo > s_hi` (R93, R95). -/
def gradientSteps (startIdx endIdx : Int) (last : Byte) : List Int :=
  (List.range (gradientHi startIdx endIdx last - gradientLo startIdx + 1).toNat).map
    fun (k : Nat) => gradientLo startIdx + (k : Int)

/-- One channel of the interpolated colour, exact: `from_k + tdiv((to_k - from_k) * s, steps)`
(R94). -/
def channelAt (fromK toK : Byte) (s steps : Int) : Int :=
  (fromK.toNat : Int) + tdiv (((toK.toNat : Int) - (fromK.toNat : Int)) * s) steps

/-- One channel as the byte that is sent; by R96(c) nothing is cut off. -/
def channelByte (fromK toK : Byte) (s steps : Int) : Byte :=
  BitVec.ofInt 8 (channelAt fromK toK s steps)

/-- The colour at offset `s` of a span of `steps`, the channels taken independently (R94). -/
def colorAt (fromC toC : Rgb) (s steps : Int) : Rgb :=
  { r := channelByte fromC.r toC.r s steps
    g := channelByte fromC.g toC.g s steps
    b := channelByte fromC.b toC.b s steps }

end Sys2Proof.Machine
end

