-- ==== Sys2Proof/Syntax.lean ====
section
/-! DEFINITION. The commands of the encoder (spec/30_encoding.md R41, R55), one constructor per
row of spec/opcode_table.json. Operands are in the order of R41, at the widths of R6. -/

namespace Sys2Proof

/-- One constructor per row of the opcode table: the 17 commands of R41, the RGBORDER frame that
only INIT emits (R61), and the reserved opcode 0xA8 (R50). Names that are Lean keywords are
spelled out: REPEAT is `repeatRange`, SHOW is `showStrip`. -/
inductive Instr where
  /-- `INIT(ledCount, ledType, colorOrder)` (R59). -/
  | init (ledCount : Half) (ledType : LedType) (colorOrder : ColorOrder)
  /-- The RGBORDER frame `[0xC1, p0, p1, p2]`, "not a command" (R61, R44). -/
  | rgborder (p0 p1 p2 : Byte)
  /-- `SETRGB(r, g, b)` (R65). -/
  | setrgb (r g b : Byte)
  /-- `SETRGBW(r, g, b, w)` (R66). -/
  | setrgbw (r g b w : Byte)
  /-- `SETHSV(hue, sat, val)` (R67). -/
  | sethsv (hue : Half) (sat val : Byte)
  /-- `SETLED(index)` (R70). -/
  | setled (index : Byte)
  /-- `CLEARLED(index)` (R71). -/
  | clearled (index : Byte)
  /-- `SETALL` (R72). -/
  | setall
  /-- `CLEARALL` (R73). -/
  | clearall
  /-- `SETRANGE(start, end)` (R74). -/
  | setrange (startIdx endIdx : Byte)
  /-- `SETRAINBOW(hue, sat, val, start, end, step)` (R75). -/
  | setrainbow (hue : Half) (sat val startIdx endIdx step : Byte)
  /-- `SHIFTUP(start, end, count)` (R79). -/
  | shiftup (startIdx endIdx count : Byte)
  /-- `SHIFTDOWN(start, end, count)` (R80). -/
  | shiftdown (startIdx endIdx count : Byte)
  /-- `COPYLED(from, to)` (R81). -/
  | copyled (fromIdx toIdx : Byte)
  /-- `REPEAT(start, end, count)` (R82). -/
  | repeatRange (startIdx endIdx count : Byte)
  /-- `SHOW` (R86). -/
  | showStrip
  /-- `GRADIENT(start, end, from, to)`, `start` and `end` two's complement (R90). -/
  | gradient (startIdx endIdx : Half) (fromColor toColor : Rgb)
  /-- `RESETCHIP` (R88). -/
  | resetchip
  /-- The wire opcode 0xA8, "(reserved/gradient-related)" (R50). -/
  | reservedA8
deriving DecidableEq, Repr

end Sys2Proof
end

