-- ==== Sys2Proof/WellFormed.lean ====
section
/-! DEFINITION. Which terms of `Instr` are commands a caller can present
(spec/30_encoding.md R41, R55). -/

namespace Sys2Proof

/-- The RGBORDER row is a frame "emitted only by INIT as its second transaction, not a command"
(opcode table, R61). -/
def Instr.isOrderFrame : Instr → Bool
  | .init _ _ _ => false
  | .rgborder _ _ _ => true
  | .setrgb _ _ _ => false
  | .setrgbw _ _ _ _ => false
  | .sethsv _ _ _ => false
  | .setled _ => false
  | .clearled _ => false
  | .setall => false
  | .clearall => false
  | .setrange _ _ => false
  | .setrainbow _ _ _ _ _ _ => false
  | .shiftup _ _ _ => false
  | .shiftdown _ _ _ => false
  | .copyled _ _ => false
  | .repeatRange _ _ _ => false
  | .showStrip => false
  | .gradient _ _ _ _ => false
  | .resetchip => false
  | .reservedA8 => false

/-- The row of the reserved opcode 0xA8: "no command of the encoder emits it" (R50, R3h). -/
def Instr.isReserved : Instr → Bool
  | .init _ _ _ => false
  | .rgborder _ _ _ => false
  | .setrgb _ _ _ => false
  | .setrgbw _ _ _ _ => false
  | .sethsv _ _ _ => false
  | .setled _ => false
  | .clearled _ => false
  | .setall => false
  | .clearall => false
  | .setrange _ _ => false
  | .setrainbow _ _ _ _ _ _ => false
  | .shiftup _ _ _ => false
  | .shiftdown _ _ _ => false
  | .copyled _ _ => false
  | .repeatRange _ _ _ => false
  | .showStrip => false
  | .gradient _ _ _ _ => false
  | .resetchip => false
  | .reservedA8 => true

/-- The command port is "a 17-way tagged union" that is closed (R55): every row but those two is
a command. Operand widths need no check, since "an operand value outside a field's type cannot
be presented" (R55). -/
def Instr.wellFormed (i : Instr) : Bool :=
  !i.isOrderFrame && !i.isReserved

end Sys2Proof
end

