-- ==== Sys2Proof/Decode.lean ====
section
/-! DEFINITION. The wire: opcodes, frames, the reader of a byte stream, and the reading of a
transaction's bytes back to the row of the opcode table they stand for, with the encoder beside
it (spec/30_encoding.md R42 to R54). The command port has no binary form (R55); what is encoded
and decoded here is what the block puts on the bus. -/

namespace Sys2Proof

/-- The rows of R43, one for each opcode of the protocol. -/
inductive FrameKind where
  | setrgb | setrgbw | sethsv | setled | setall | setrange | rainbow | reservedA8
  | init | showStrip | shiftA | shiftB | copyled | repeatRange | rgborder
deriving DecidableEq, Repr

/-- The opcode byte of each row (R4, R43). -/
def FrameKind.opcode : FrameKind → Byte
  | .setrgb => 0xA1
  | .setrgbw => 0xA2
  | .sethsv => 0xA3
  | .setled => 0xA4
  | .setall => 0xA5
  | .setrange => 0xA6
  | .rainbow => 0xA7
  | .reservedA8 => 0xA8
  | .init => 0xB1
  | .showStrip => 0xB2
  | .shiftA => 0xB3
  | .shiftB => 0xB4
  | .copyled => 0xB5
  | .repeatRange => 0xB6
  | .rgborder => 0xC1

/-- The number of operand bytes that follow each opcode (R43). For 0xA8 the spec gives no number
("not given"); the 0 here is the model's (DESIGN CHOICE, assumption log 25), and the reader of
frames stops at that opcode by name before it asks. -/
def FrameKind.operandCount : FrameKind → Nat
  | .setrgb => 3
  | .setrgbw => 4
  | .sethsv => 4
  | .setled => 1
  | .setall => 0
  | .setrange => 2
  | .rainbow => 7
  | .reservedA8 => 0
  | .init => 2
  | .showStrip => 0
  | .shiftA => 3
  | .shiftB => 3
  | .copyled => 2
  | .repeatRange => 3
  | .rgborder => 3

/-- All rows of R43, in its order. -/
def FrameKind.all : List FrameKind :=
  [.setrgb, .setrgbw, .sethsv, .setled, .setall, .setrange, .rainbow, .reservedA8,
   .init, .showStrip, .shiftA, .shiftB, .copyled, .repeatRange, .rgborder]

/-- The row a byte in opcode position names, if any (R43, R50). -/
def FrameKind.ofByte (b : Byte) : Option FrameKind :=
  FrameKind.all.find? fun k => k.opcode == b

/-- The row of a shift opcode (R53). -/
def ShiftWire.kind : ShiftWire → FrameKind
  | .dirA => .shiftA
  | .dirB => .shiftB

/-- A frame: "an opcode plus its fixed-size operand bytes" (R11), with the operands of R44. -/
inductive Frame where
  | setrgb (r g b : Byte)
  | setrgbw (r g b w : Byte)
  | sethsv (hueA hueB sat val : Byte)
  | setled (index : Byte)
  | setall
  | setrange (startIdx endIdx : Byte)
  | rainbow (hueA hueB sat val startIdx endIdx step : Byte)
  | init (countByte typeByte : Byte)
  | showStrip
  | shift (wire : ShiftWire) (startIdx endIdx count : Byte)
  | copyled (fromIdx toIdx : Byte)
  | repeatRange (startIdx endIdx count : Byte)
  | rgborder (p0 p1 p2 : Byte)
deriving DecidableEq, Repr

/-- The row of R43 a frame belongs to. -/
def Frame.kind : Frame → FrameKind
  | .setrgb _ _ _ => .setrgb
  | .setrgbw _ _ _ _ => .setrgbw
  | .sethsv _ _ _ _ => .sethsv
  | .setled _ => .setled
  | .setall => .setall
  | .setrange _ _ => .setrange
  | .rainbow _ _ _ _ _ _ _ => .rainbow
  | .init _ _ => .init
  | .showStrip => .showStrip
  | .shift w _ _ _ => w.kind
  | .copyled _ _ => .copyled
  | .repeatRange _ _ _ => .repeatRange
  | .rgborder _ _ _ => .rgborder

/-- The operand bytes of a frame in transmission order (R44). -/
def Frame.operands : Frame → List Byte
  | .setrgb r g b => [r, g, b]
  | .setrgbw r g b w => [r, g, b, w]
  | .sethsv hA hB s v => [hA, hB, s, v]
  | .setled i => [i]
  | .setall => []
  | .setrange s e => [s, e]
  | .rainbow hA hB s v a e p => [hA, hB, s, v, a, e, p]
  | .init c t => [c, t]
  | .showStrip => []
  | .shift _ s e c => [s, e, c]
  | .copyled f t => [f, t]
  | .repeatRange s e c => [s, e, c]
  | .rgborder p q s => [p, q, s]

/-- The bytes of a frame: "opcode byte first, then its operand bytes" (R28, R42). -/
def Frame.bytes (f : Frame) : List Byte := f.kind.opcode :: f.operands

/-- The bytes of frames sent one after another: "every byte of the first frame precedes every
byte of the second" (R28). -/
def framesBytes (fs : List Frame) : List Byte := fs.flatMap Frame.bytes

/-- The frame of a row with the given operand bytes (R44); none when their number is not the
row's, and none for 0xA8, whose operand count is not given (R50). -/
def Frame.ofOperands (k : FrameKind) (bs : List Byte) : Option Frame :=
  match k with
  | .setrgb => match bs with | [r, g, b] => some (.setrgb r g b) | _ => none
  | .setrgbw => match bs with | [r, g, b, w] => some (.setrgbw r g b w) | _ => none
  | .sethsv => match bs with | [hA, hB, s, v] => some (.sethsv hA hB s v) | _ => none
  | .setled => match bs with | [i] => some (.setled i) | _ => none
  | .setall => match bs with | [] => some .setall | _ => none
  | .setrange => match bs with | [s, e] => some (.setrange s e) | _ => none
  | .rainbow => match bs with | [hA, hB, s, v, a, e, p] => some (.rainbow hA hB s v a e p) | _ => none
  | .reservedA8 => none
  | .init => match bs with | [c, t] => some (.init c t) | _ => none
  | .showStrip => match bs with | [] => some .showStrip | _ => none
  | .shiftA => match bs with | [s, e, c] => some (.shift .dirA s e c) | _ => none
  | .shiftB => match bs with | [s, e, c] => some (.shift .dirB s e c) | _ => none
  | .copyled => match bs with | [f, t] => some (.copyled f t) | _ => none
  | .repeatRange => match bs with | [s, e, c] => some (.repeatRange s e c) | _ => none
  | .rgborder => match bs with | [p, q, s] => some (.rgborder p q s) | _ => none

/-- Why bytes are not read as an instruction. -/
inductive DecodeError where
  /-- No byte to read: in particular RESETCHIP, which sends none (R88). -/
  | noBytes
  /-- A byte in opcode position that is none of the fifteen (R50 b). -/
  | unknownOpcode (b : Byte)
  /-- The reserved opcode 0xA8 inside a frame stream: "the bytes did not come from this block"
  (spec/93 U3, R50 a). -/
  | reservedOpcode
  /-- Fewer operand bytes than the opcode has (R43). -/
  | truncated (k : FrameKind)
  /-- A hue above 359 on the wire, which R45 excludes. -/
  | hueOutOfRange
  /-- An odd count byte, which R46 excludes. -/
  | oddCountByte
  /-- A type byte that is neither of the two (R47). -/
  | unknownTypeByte
  /-- A shift opcode that neither shift command sends under `P` (R50 c). -/
  | unusedShiftOpcode
  /-- A colour + LED transaction: one step of a GRADIENT, whose operands are not on the wire
  (R49, R51). -/
  | gradientStep
deriving DecidableEq, Repr

/-- Read one frame off a byte stream: the opcode, then as many operand bytes as R43 gives it. -/
def decodeFrame : List Byte → Except DecodeError (Frame × List Byte)
  | [] => .error .noBytes
  | b :: rest =>
    match FrameKind.ofByte b with
    | none => .error (.unknownOpcode b)
    | some k =>
      if k = .reservedA8 then .error .reservedOpcode
      else match Frame.ofOperands k (rest.take k.operandCount) with
        | some f => .ok (f, rest.drop k.operandCount)
        | none => .error (.truncated k)

/-- Read frames until the bytes are used up (R49), at most `fuel` of them. -/
def decodeFramesFuel : Nat → List Byte → Except DecodeError (List Frame)
  | _, [] => .ok []
  | 0, _ :: _ => .error .noBytes
  | fuel + 1, b :: rest =>
    match decodeFrame (b :: rest) with
    | .error e => .error e
    | .ok (f, rest') =>
      match decodeFramesFuel fuel rest' with
      | .error e => .error e
      | .ok fs => .ok (f :: fs)

/-- The frames of a byte stream: "taking an opcode, taking the operand bytes rule R43 gives it,
and repeating until the bytes are used up" (R49). A frame has at least one byte, so the length is
fuel enough. -/
def decodeFrames (bs : List Byte) : Except DecodeError (List Frame) :=
  decodeFramesFuel bs.length bs

/-- `ZERO_FRAME`, the "set color to zero" frame (R52). -/
def zeroFrame (P : Params) : Frame :=
  match P.clearColor with
  | .rgb => .setrgb 0 0 0
  | .rgbw => .setrgbw 0 0 0 0

/-- Whether two frames may share a transaction: the three fused rows of R49 (R27). -/
def fuses (P : Params) (f g : Frame) : Bool :=
  (decide (f.kind = .setrgb) && decide (g.kind = .setled)) ||
  (decide (f = zeroFrame P) && (decide (g.kind = .setled) || decide (g.kind = .setall)))

/-- The hue two wire bytes stand for (R45). -/
def hueOfBytes (P : Params) (hA hB : Byte) : Half :=
  if P.hueLowFirst then BitVec.ofNat 16 (hA.toNat + 256 * hB.toNat)
  else BitVec.ofNat 16 (hB.toNat + 256 * hA.toNat)

/-- The LED type a type byte stands for (R47). -/
def ledTypeOfByte (P : Params) (t : Byte) : Option LedType :=
  if t = P.typeByteRgb then some .rgb else if t = P.typeByteRgbw then some .rgbw else none

/-- The even LED count a count byte stands for: "256 encodes as 0" (R46). -/
def ledCountOfByte (c : Byte) : Half := if c = 0 then 256 else c.setWidth 16

/-- The row of the opcode table a transaction of one frame stands for. Where several commands
send the same bytes (R51) the reading is the table's plainest one; see assumption log 16. -/
def instrOfFrame (P : Params) : Frame → Except DecodeError Instr
  | .setrgb r g b => .ok (.setrgb r g b)
  | .setrgbw r g b w => .ok (.setrgbw r g b w)
  | .sethsv hA hB s v =>
    if (hueOfBytes P hA hB).toNat ≤ Machine.hueMax then .ok (.sethsv (hueOfBytes P hA hB) s v)
    else .error .hueOutOfRange
  | .setled i => .ok (.setled i)
  | .setall => .ok .setall
  | .setrange s e => .ok (.setrange s e)
  | .rainbow hA hB s v a e p =>
    if (hueOfBytes P hA hB).toNat ≤ Machine.hueMax then
      .ok (.setrainbow (hueOfBytes P hA hB) s v a e p)
    else .error .hueOutOfRange
  | .init c t =>
    if c.toNat % 2 = 1 then .error .oddCountByte
    else match ledTypeOfByte P t with
      | some ty => .ok (.init (ledCountOfByte c) ty P.defaultOrder)
      | none => .error .unknownTypeByte
  | .showStrip => .ok .showStrip
  | .shift w s e c =>
    if w = P.opShiftDownWire then .ok (.shiftdown s e c)
    else if w = P.opShiftUpWire then .ok (.shiftup s e c)
    else .error .unusedShiftOpcode
  | .copyled f t => .ok (.copyled f t)
  | .repeatRange s e c => .ok (.repeatRange s e c)
  | .rgborder p q s => .ok (.rgborder p q s)

/-- The row a fused transaction stands for: CLEARLED and CLEARALL by their zero frame, else a
step of GRADIENT (R49, R54). -/
def instrOfFused (P : Params) (f g : Frame) : Except DecodeError Instr :=
  if f = zeroFrame P then
    match g with
    | .setled i => .ok (.clearled i)
    | _ => .ok .clearall
  else .error .gradientStep

/-- Read one instruction's transaction off the front of a byte stream, and what is left: one
frame, or two where R49 lets the second share the transaction of the first. 0xA8 is read as its
row of the opcode table, which has no meaning (R50); that the row is one byte long, so that the rest
begins right after it, is the model's: its operand count is "not given" (DESIGN CHOICE, assumption
log 25). -/
def decode (P : Params) (bs : List Byte) : Except DecodeError (Instr × List Byte) :=
  if bs.head? = some FrameKind.reservedA8.opcode then .ok (.reservedA8, bs.tail)
  else
    match decodeFrame bs with
    | .error e => .error e
    | .ok (f, rest) =>
      match decodeFrame rest with
      | .ok (g, rest') =>
        if fuses P f g then (instrOfFused P f g).map fun i => (i, rest')
        else (instrOfFrame P f).map fun i => (i, rest)
      | .error _ => (instrOfFrame P f).map fun i => (i, rest)

/-- The frames of an instruction's first transaction, as its row of the opcode table gives them.
GRADIENT's depend on `CFG` but for the single point (R92), and RESETCHIP sends no byte (R88). -/
def Instr.frames (P : Params) : Instr → List Frame
  | .init n t _ => [.init (Machine.countByte n) (Machine.typeByte P t)]
  | .rgborder p q s => [.rgborder p q s]
  | .setrgb r g b => [.setrgb r g b]
  | .setrgbw r g b w => [.setrgbw r g b w]
  | .sethsv h s v => [.sethsv (Machine.hueA P h) (Machine.hueB P h) s v]
  | .setled i => [.setled i]
  | .clearled i => [zeroFrame P, .setled i]
  | .setall => [.setall]
  | .clearall => [zeroFrame P, .setall]
  | .setrange s e => [.setrange s e]
  | .setrainbow h s v a e p => [.rainbow (Machine.hueA P h) (Machine.hueB P h) s v a e p]
  | .shiftup s e c => [.shift P.opShiftUpWire s e c]
  | .shiftdown s e c => [.shift P.opShiftDownWire s e c]
  | .copyled f t => [.copyled f t]
  | .repeatRange s e c => [.repeatRange s e c]
  | .showStrip => [.showStrip]
  | .gradient st en fromC _ => if st = en then [.setrgb fromC.r fromC.g fromC.b] else []
  | .resetchip => []
  | .reservedA8 => []

/-- The encoder: the bytes of an instruction's first transaction (R42, R44, R49). The row of the
reserved opcode, whose operand count is "not given" (R43, R50), is written as its opcode byte alone:
the model's length (DESIGN CHOICE, assumption log 25). -/
def encode (P : Params) (i : Instr) : List Byte :=
  if i.isReserved then [FrameKind.reservedA8.opcode] else framesBytes (i.frames P)

/-- The instructions whose first transaction tells them whole, so that `decode` gives them back;
R51 says why the others cannot: a clamped hue, an odd or clamped count, a colour order, the
shift-up command where both shifts share an opcode, GRADIENT and RESETCHIP. -/
def Instr.wireExact (P : Params) : Instr → Bool
  | .init n _ o =>
    decide (2 ≤ n.toNat ∧ n.toNat ≤ 256 ∧ n.toNat % 2 = 0) && decide (o = P.defaultOrder)
  | .rgborder _ _ _ => true
  | .setrgb _ _ _ => true
  | .setrgbw _ _ _ _ => true
  | .sethsv h _ _ => decide (h.toNat ≤ Machine.hueMax)
  | .setled _ => true
  | .clearled _ => true
  | .setall => true
  | .clearall => true
  | .setrange _ _ => true
  | .setrainbow h _ _ _ _ _ => decide (h.toNat ≤ Machine.hueMax)
  | .shiftup _ _ _ => decide (P.opShiftUpWire ≠ P.opShiftDownWire)
  | .shiftdown _ _ _ => true
  | .copyled _ _ => true
  | .repeatRange _ _ _ => true
  | .showStrip => true
  | .gradient _ _ _ _ => false
  | .resetchip => false
  | .reservedA8 => true

/-- The recommended defaults of R5, most of them "from general knowledge, not in source": the
values the opcode table's `match` column is written with. Used to read that table and in tests;
no meaning refers to it (assumption log 4). -/
def Params.recommended : Params :=
  { typeByteRgb := 0x18
    typeByteRgbw := 0x20
    typeBytesDiffer := by decide
    defaultOrder := .grb
    orderPayload := { p0 := 3, p1 := 2, p2 := 1, distinct := by decide }
    hueLowFirst := true
    opShiftDownWire := .dirB
    opShiftUpWire := .dirB
    clearColor := .rgbw
    tCmdUs := 500
    tLedUs := 30
    tInitUs := 20000
    tRstLowUs := 100000
    tRstHighUs := 100000
    hasResetLine := false }

/-- The first `n` bytes of a number whose lowest byte is sent first. -/
def wordBytes (n w : Nat) : List Byte := (List.range n).map fun k => BitVec.ofNat 8 (w >>> (8 * k))

/-- The length in bytes of the longest transaction: the RAINBOW frame (R44, R49). -/
def longestBytes : Nat := 8

/-- The bytes an instruction word of the opcode table stands for: its own bytes, then zeros up to
the longest transaction. -/
def tableBytes (nbits w : Nat) : List Byte :=
  wordBytes (nbits / 8) w ++ List.replicate (longestBytes - nbits / 8) 0

/-- The instruction the decoder reads from a word of the opcode table, under the parameter values
that table is written with. -/
def decodeTableWord (nbits w : Nat) : Option Instr :=
  match decode Params.recommended (tableBytes nbits w) with
  | .ok (i, _) => some i
  | .error _ => none

end Sys2Proof
end

