-- ==== Sys2Proof/Machine/State.lean ====
section
/-! DEFINITION. The state of the encoder (spec/10_state.md R13 to R22), its output events
(spec/20_memory.md R24, R40), the command port (R15, R55), the outcomes of a command (R25) and the
state after reset (R19, R116). -/

namespace Sys2Proof.Machine

/-- The events of the output trace (R24). -/
inductive Event where
  /-- `CS_LOW`: assert chip-select, "begin transaction". -/
  | csLow
  /-- `TX(b)`: write one byte on the bus. -/
  | tx (b : Byte)
  /-- `CS_HIGH`: deassert chip-select, "end transaction". -/
  | csHigh
  /-- `DELAY(n)`: block for `n` microseconds; `DELAY(0)` is legal and is not removed. -/
  | delay (n : Nat)
  /-- `RST_LOW`: drive the hardware-reset line low. -/
  | rstLow
  /-- `RST_HIGH`: drive the hardware-reset line high. -/
  | rstHigh
deriving DecidableEq, Repr

/-- The level of an output line; chip-select is asserted when low (R40). -/
inductive Level where
  | low
  | high
deriving DecidableEq, Repr

/-- The configuration record `CFG` (R13): the encoder's whole persistent state. -/
structure Cfg where
  /-- `CFG.lastIndex`: the highest valid LED index. -/
  lastIndex : Byte
  /-- `CFG.ledType`: stored by INIT, read by no rule. -/
  ledType : LedType
  /-- `CFG.colorOrder`: stored by INIT, read by no rule. -/
  colorOrder : ColorOrder
  /-- `CFG.valid`: whether an INIT has completed since reset. -/
  valid : Bool
deriving DecidableEq, Repr

/-- A command as the caller presents it (R15, R55). `overlapped` says that the caller presents a
second command before this one has finished, against "a required caller discipline" (R113, R121);
that an overlap is such a mark on the command it falls upon is the model's form (DESIGN CHOICE,
assumption log 2). -/
structure Presented where
  cmd : Instr
  overlapped : Bool
deriving DecidableEq, Repr

/-- The machine: the parameters `P`, `CFG`, the two output lines, the trace so far, and what the
caller has presented and the encoder has not yet taken, first presented first. -/
structure State where
  /-- `P` (R5); no step changes it. -/
  params : Params
  /-- `CFG` (R13). -/
  cfg : Cfg
  /-- The chip-select line (R40). -/
  cs : Level
  /-- The hardware-reset line, where there is one (R40). -/
  rst : Level
  /-- Every event since reset, oldest first (R24, R127). -/
  trace : List Event
  /-- The command port (R15, R55; assumption log 1). -/
  port : List Presented
deriving DecidableEq, Repr

/-- The encoder "raises no exception, returns no error code and sets no status" (R100): there is
nothing to raise, so there is no constructor and no step faults. Safe. -/
inductive Fault where
deriving DecidableEq, Repr

/-- Why a command or a presentation has no meaning (R108). -/
inductive Refusal where
  /-- An arm of `exec` without a meaning; raised by none now. Safe: the run stops. -/
  | notModelled (mnemonic : String)
  /-- `refuse(uninitialised)`: a command that reads `CFG.lastIndex` while `CFG.valid = 0`
  (R18, R108); raised by the ten meanings that read it. Safe: the spec gives no behaviour. -/
  | uninitialised
  /-- `refuse(reserved_led_count)`: INIT with `ledCount = 0` (R63, R108); raised by INIT. Safe:
  the spec gives no behaviour. -/
  | reservedLedCount
  /-- `refuse(concurrent)`: a command presented while another is running (R108, R113); raised by
  the command port at the step in which the two would meet, so that neither has an effect. Safe: the
  spec gives no behaviour. -/
  | concurrent
  /-- A term of `Instr` that is none of the 17 commands stands on the port (R41, R55); raised by
  the command port. Safe: such a term "cannot be presented". -/
  | notACommand
  /-- The reserved opcode 0xA8, whose operand count and meaning are not given (R50); raised by its
  own row. Safe: the spec gives no behaviour. -/
  | reservedOpcode
deriving DecidableEq, Repr

/-- The three outcomes of a command (R25): executed with a new `CFG` and a trace, dropped, or
refused. Which of the first two it was is the ghost outcome of R107: it leaves no mark in State. -/
inductive Response where
  | executed (cfg : Cfg) (events : List Event)
  | dropped
  | refused (why : Refusal)
deriving DecidableEq, Repr

/-- What the command port offers the next step: nothing, a presentation without meaning, or a
command with the state it leaves behind on the port. -/
inductive Fetched where
  | idle
  | refused (why : Refusal)
  | command (i : Instr) (rest : State)
deriving DecidableEq, Repr

/-- `CFG` after reset: `valid` is 0 (R19). The other three are "unspecified" there; the values
named here are the model's and no command reads them before an INIT (assumption log 5). -/
def Cfg.reset : Cfg :=
  { lastIndex := 0, ledType := .rgb, colorOrder := .rgb, valid := false }

/-- The state after reset of an encoder with the parameters `P`: "the trace empty, chip-select
high, the reset line (when present) high", no event emitted (R19, R116), nothing presented. -/
def State.resetWith (P : Params) : State :=
  { params := P, cfg := Cfg.reset, cs := .high, rst := .high, trace := [], port := [] }

/-- The machine right after reset, its parameters open (R5; assumption log 3). -/
def State.reset : State := State.resetWith Config.params

end Sys2Proof.Machine
end

