-- ==== Sys2Proof/Machine/Ops.lean ====
section
/-! DEFINITION. The operations every command shares: transactions, the reading of
`CFG.lastIndex`, the checks that drop, the emission of events, the outcome of a command, and the
taking of a command from the port (spec/20_memory.md R24 to R27, R40; spec/10_state.md R15, R18;
spec/60_exceptions.md R101, R108, R113). -/

namespace Sys2Proof.Machine

/-- `Transaction(bytes)`: chip-select low, the bytes in order, chip-select high, the settle delay
(R26). -/
def transaction (P : Params) (bytes : List Byte) : List Event :=
  .csLow :: bytes.map Event.tx ++ [.csHigh, .delay P.tCmdUs]

/-- A transaction of one frame (R26, R28). -/
def sendFrame (P : Params) (f : Frame) : List Event := transaction P f.bytes

/-- A fused transaction of two frames, `Transaction(F1 ++ F2)` (R27). -/
def sendFused (P : Params) (f g : Frame) : List Event := transaction P (f.bytes ++ g.bytes)

/-- The chip-select line after an event (R24). -/
def csAfter (l : Level) : Event → Level
  | .csLow => .low
  | .csHigh => .high
  | _ => l

/-- The reset line after an event (R24). -/
def rstAfter (l : Level) : Event → Level
  | .rstLow => .low
  | .rstHigh => .high
  | _ => l

/-- `emit`: append events to the trace and drive the two lines (R9, R24, R40). -/
def State.emit (s : State) (events : List Event) : State :=
  { s with
    cs := events.foldl csAfter s.cs
    rst := events.foldl rstAfter s.rst
    trace := s.trace ++ events }

/-- `CFG <- c` (R9, R13). -/
def State.setCfg (s : State) (c : Cfg) : State := { s with cfg := c }

/-- The outcome of a command as the host reads it: an executed command has its `CFG` and its
events, a drop changes nothing (R101), a refusal has no next state (R108). -/
def State.answer (s : State) : Response → Host.Outcome State Fault Refusal
  | .executed c events => .next ((s.setCfg c).emit events)
  | .dropped => .next s
  | .refused why => .refused why

/-- Read `CFG.lastIndex`: `refuse(uninitialised)` while `CFG.valid = 0` (R18). -/
def withLastIndex (c : Cfg) (k : Byte → Response) : Response :=
  if c.valid then k c.lastIndex else .refused .uninitialised

/-- Drop the command unless its check holds (R101). -/
def dropUnless (ok : Bool) (r : Response) : Response := if ok then r else .dropped

/-- A command whose index check passes executes with `CFG` unchanged; one that fails it is
dropped; one before the first INIT is refused (R18, R101, R102). -/
def checked (c : Cfg) (ok : Byte → Bool) (events : List Event) : Response :=
  withLastIndex c fun last => dropUnless (ok last) (.executed c events)

/-- Take the next command from the port (R15): nothing there, the encoder is idle (R127); a
command that a second one overlaps is refused with it, before any event, since "interleaved
transactions must not be assumed well-formed" (R113); a term that is none of the 17 commands is
refused (R41, R55). Where several refusals hold the spec gives no order; that an overlap is named
first, then a term that is no command, then the command's own reason, is the model's (DESIGN CHOICE,
assumption log 26). -/
def State.fetch (s : State) : Fetched :=
  match s.port with
  | [] => .idle
  | p :: rest =>
    if p.overlapped then .refused .concurrent
    else if p.cmd.wellFormed then .command p.cmd { s with port := rest }
    else .refused .notACommand

/-- The caller presents a command, to be taken before what already waits. -/
def State.presentFirst (s : State) (i : Instr) : State :=
  { s with port := { cmd := i, overlapped := false } :: s.port }

/-- The port after a command is presented before the one at its head has finished: the head is
marked and the new command stands behind it. With nothing at the head nothing is overlapped. -/
def overlapHead (i : Instr) : List Presented → List Presented
  | [] => [{ cmd := i, overlapped := false }]
  | p :: rest => { p with overlapped := true } :: { cmd := i, overlapped := false } :: rest

/-- The caller presents a command while the one it presented before is still running, against
the discipline of R113 and R121 (assumption log 2). -/
def State.presentOverlapping (s : State) (i : Instr) : State :=
  { s with port := overlapHead i s.port }

/-- The caller presents commands one after another, as a program (R127, spec/95 Part 3). -/
def State.present (s : State) (cmds : List Instr) : State :=
  { s with port := s.port ++ cmds.map fun i => { cmd := i, overlapped := false } }

end Sys2Proof.Machine
end

