-- ==== Sys2Proof/Machine/Assign.lean ====
section
/-! DEFINITION. The assign commands SETLED, CLEARLED, SETALL, CLEARALL, SETRANGE, SETRAINBOW
(spec/42_assign.md), each as a response to `P` and `CFG` and as a meaning. -/

namespace Sys2Proof.Machine

/-- `SETLED(index)` as a response (R70). -/
def setledResponse (P : Params) (c : Cfg) (index : Byte) : Response :=
  checked c (fun last => indexOk last index) (sendFrame P (.setled index))

/-- `SETLED(index)` (R70). -/
def execSetled (index : Byte) (s : State) : Host.Outcome State Fault Refusal :=
  s.answer (setledResponse s.params s.cfg index)

/-- `CLEARLED(index)` as a response: the zero-colour frame and the assign frame in one transaction,
neither when the index fails (R71). -/
def clearledResponse (P : Params) (c : Cfg) (index : Byte) : Response :=
  checked c (fun last => indexOk last index) (sendFused P (zeroFrame P) (.setled index))

/-- `CLEARLED(index)` (R71). -/
def execClearled (index : Byte) (s : State) : Host.Outcome State Fault Refusal :=
  s.answer (clearledResponse s.params s.cfg index)

/-- `SETALL` as a response (R72). -/
def setallResponse (P : Params) (c : Cfg) : Response := .executed c (sendFrame P .setall)

/-- `SETALL` (R72). -/
def execSetall (s : State) : Host.Outcome State Fault Refusal :=
  s.answer (setallResponse s.params s.cfg)

/-- `CLEARALL` as a response: the zero-colour frame and the assign-to-all frame in one transaction
(R73). -/
def clearallResponse (P : Params) (c : Cfg) : Response :=
  .executed c (sendFused P (zeroFrame P) .setall)

/-- `CLEARALL` (R73). -/
def execClearall (s : State) : Host.Outcome State Fault Refusal :=
  s.answer (clearallResponse s.params s.cfg)

/-- `SETRANGE(start, end)` as a response (R74). -/
def setrangeResponse (P : Params) (c : Cfg) (startIdx endIdx : Byte) : Response :=
  checked c (fun last => rangeOk last startIdx endIdx) (sendFrame P (.setrange startIdx endIdx))

/-- `SETRANGE(start, end)` (R74). -/
def execSetrange (startIdx endIdx : Byte) (s : State) : Host.Outcome State Fault Refusal :=
  s.answer (setrangeResponse s.params s.cfg startIdx endIdx)

/-- `SETRAINBOW(hue, sat, val, start, end, step)` as a response: the range check, then the hue clamp
(R75, R77); `step` is forwarded unchecked (R84). -/
def setrainbowResponse (P : Params) (c : Cfg) (hue : Half) (sat val startIdx endIdx step : Byte) :
    Response :=
  checked c (fun last => rangeOk last startIdx endIdx)
    (sendFrame P (.rainbow (hueA P hue) (hueB P hue) sat val startIdx endIdx step))

/-- `SETRAINBOW(hue, sat, val, start, end, step)` (R75). -/
def execSetrainbow (hue : Half) (sat val startIdx endIdx step : Byte) (s : State) :
    Host.Outcome State Fault Refusal :=
  s.answer (setrainbowResponse s.params s.cfg hue sat val startIdx endIdx step)

end Sys2Proof.Machine
end

