-- ==== Sys2Proof/Machine/BufferOps.lean ====
section
/-! DEFINITION. The buffer commands SHIFTUP, SHIFTDOWN, COPYLED, REPEAT
(spec/43_buffer_ops.md), each as a response to `P` and `CFG` and as a meaning. `count` is never
checked (R84). -/

namespace Sys2Proof.Machine

/-- `SHIFTUP(start, end, count)` as a response, with its own wire opcode `P.OP_SHIFT_UP_WIRE`
(R53, R79). -/
def shiftupResponse (P : Params) (c : Cfg) (startIdx endIdx count : Byte) : Response :=
  checked c (fun last => rangeOk last startIdx endIdx)
    (sendFrame P (.shift P.opShiftUpWire startIdx endIdx count))

/-- `SHIFTUP(start, end, count)` (R79). -/
def execShiftup (startIdx endIdx count : Byte) (s : State) : Host.Outcome State Fault Refusal :=
  s.answer (shiftupResponse s.params s.cfg startIdx endIdx count)

/-- `SHIFTDOWN(start, end, count)` as a response (R53, R80). -/
def shiftdownResponse (P : Params) (c : Cfg) (startIdx endIdx count : Byte) : Response :=
  checked c (fun last => rangeOk last startIdx endIdx)
    (sendFrame P (.shift P.opShiftDownWire startIdx endIdx count))

/-- `SHIFTDOWN(start, end, count)` (R80). -/
def execShiftdown (startIdx endIdx count : Byte) (s : State) :
    Host.Outcome State Fault Refusal :=
  s.answer (shiftdownResponse s.params s.cfg startIdx endIdx count)

/-- `COPYLED(from, to)` as a response: two independent indices, in either order (R81). -/
def copyledResponse (P : Params) (c : Cfg) (fromIdx toIdx : Byte) : Response :=
  checked c (fun last => indexOk last fromIdx && indexOk last toIdx)
    (sendFrame P (.copyled fromIdx toIdx))

/-- `COPYLED(from, to)` (R81). -/
def execCopyled (fromIdx toIdx : Byte) (s : State) : Host.Outcome State Fault Refusal :=
  s.answer (copyledResponse s.params s.cfg fromIdx toIdx)

/-- `REPEAT(start, end, count)` as a response; only the source range is checked (R82). -/
def repeatRangeResponse (P : Params) (c : Cfg) (startIdx endIdx count : Byte) : Response :=
  checked c (fun last => rangeOk last startIdx endIdx)
    (sendFrame P (.repeatRange startIdx endIdx count))

/-- `REPEAT(start, end, count)` (R82). -/
def execRepeatRange (startIdx endIdx count : Byte) (s : State) :
    Host.Outcome State Fault Refusal :=
  s.answer (repeatRangeResponse s.params s.cfg startIdx endIdx count)

end Sys2Proof.Machine
end

