-- ==== Sys2Proof/Machine/ColorRegister.lean ====
section
/-! DEFINITION. The colour-register commands SETRGB, SETRGBW, SETHSV
(spec/41_color_register.md). None is ever dropped or refused, and none reads `CFG` (R68). -/

namespace Sys2Proof.Machine

/-- `SETRGB(r, g, b)` as a response to `P` and `CFG` (R65). -/
def setrgbResponse (P : Params) (c : Cfg) (r g b : Byte) : Response :=
  .executed c (sendFrame P (.setrgb r g b))

/-- `SETRGB(r, g, b)` (R65). -/
def execSetrgb (r g b : Byte) (s : State) : Host.Outcome State Fault Refusal :=
  s.answer (setrgbResponse s.params s.cfg r g b)

/-- `SETRGBW(r, g, b, w)` as a response; `CFG.ledType` plays no part (R66). -/
def setrgbwResponse (P : Params) (c : Cfg) (r g b w : Byte) : Response :=
  .executed c (sendFrame P (.setrgbw r g b w))

/-- `SETRGBW(r, g, b, w)` (R66). -/
def execSetrgbw (r g b w : Byte) (s : State) : Host.Outcome State Fault Refusal :=
  s.answer (setrgbwResponse s.params s.cfg r g b w)

/-- `SETHSV(hue, sat, val)` as a response, the hue clamped to 359 (R67). -/
def sethsvResponse (P : Params) (c : Cfg) (hue : Half) (sat val : Byte) : Response :=
  .executed c (sendFrame P (.sethsv (hueA P hue) (hueB P hue) sat val))

/-- `SETHSV(hue, sat, val)` (R67). -/
def execSethsv (hue : Half) (sat val : Byte) (s : State) : Host.Outcome State Fault Refusal :=
  s.answer (sethsvResponse s.params s.cfg hue sat val)

end Sys2Proof.Machine
end

