-- ==== Sys2Proof/Machine/Gradient.lean ====
section
/-! DEFINITION. GRADIENT, the linear colour gradient over a range that may reach beyond the strip
(spec/45_gradient.md). -/

namespace Sys2Proof.Machine

/-- One step of the gradient: the set-colour frame and the assign frame of index `start + s` in
one transaction (R95). By R96(b) the index is that of an LED of the strip. -/
def gradientStep (P : Params) (startIdx steps : Int) (fromC toC : Rgb) (s : Int) : List Event :=
  sendFused P
    (.setrgb (colorAt fromC toC s steps).r (colorAt fromC toC s steps).g
      (colorAt fromC toC s steps).b)
    (.setled (BitVec.ofInt 8 (startIdx + s)))

/-- The trace of a gradient of more than one point: one fused transaction for each visible `s`,
ascending (R93, R95). -/
def gradientEvents (P : Params) (last : Byte) (startIdx endIdx : Int) (fromC toC : Rgb) :
    List Event :=
  (gradientSteps startIdx endIdx last).flatMap
    (gradientStep P startIdx (endIdx - startIdx) fromC toC)

/-- GRADIENT as a response, the three stages of R90: a reversed range drops (R91), a single point
sends its colour alone and reads no `CFG` (R92), any other span needs `CFG.lastIndex` (R93). -/
def gradientResponse (P : Params) (c : Cfg) (startIdx endIdx : Int) (fromC toC : Rgb) : Response :=
  if endIdx < startIdx then .dropped
  else if endIdx = startIdx then .executed c (sendFrame P (.setrgb fromC.r fromC.g fromC.b))
  else withLastIndex c fun last => .executed c (gradientEvents P last startIdx endIdx fromC toC)

/-- `GRADIENT(start, end, from, to)`, `start` and `end` as signed values (R90). -/
def execGradient (startIdx endIdx : Half) (fromColor toColor : Rgb) (s : State) :
    Host.Outcome State Fault Refusal :=
  s.answer (gradientResponse s.params s.cfg startIdx.toInt endIdx.toInt fromColor toColor)

end Sys2Proof.Machine
end

