-- ==== Sys2Proof/Machine/Initialisation.lean ====
section
/-! DEFINITION. INIT and the RGBORDER frame it may send second (spec/40_initialize.md). -/

namespace Sys2Proof.Machine

/-- The channel-order transaction `[0xC1, p0, p1, p2]` (R48, R61). -/
def orderTransaction (P : Params) (p0 p1 p2 : Byte) : List Event :=
  sendFrame P (.rgborder p0 p1 p2)

/-- `CFG` after INIT: all four fields, `lastIndex` from the clamped count (R59). -/
def initCfg (ledCount : Half) (t : LedType) (o : ColorOrder) : Cfg :=
  { lastIndex := lastIndexOf ledCount, ledType := t, colorOrder := o, valid := true }

/-- The trace of INIT: one or two transactions, then the warm-up delay (R59, R61). -/
def initEvents (P : Params) (ledCount : Half) (t : LedType) (o : ColorOrder) : List Event :=
  sendFrame P (.init (countByte ledCount) (typeByte P t))
    ++ (if needsOrderFrame P t o then
          orderTransaction P P.orderPayload.p0 P.orderPayload.p1 P.orderPayload.p2
        else [])
    ++ [.delay P.tInitUs]

/-- INIT as a response: a count of 0 is a reserved input (R63), any other executes (R59). -/
def initResponse (P : Params) (ledCount : Half) (t : LedType) (o : ColorOrder) : Response :=
  if ledCount = 0 then .refused .reservedLedCount
  else .executed (initCfg ledCount t o) (initEvents P ledCount t o)

/-- `INIT(ledCount, ledType, colorOrder)` (R59 to R63). -/
def execInit (ledCount : Half) (t : LedType) (o : ColorOrder) (s : State) :
    Host.Outcome State Fault Refusal :=
  s.answer (initResponse s.params ledCount t o)

/-- The RGBORDER row as a response: the transaction INIT sends second, with the row's operand
bytes (R61, R44). It is no command, so the port never lets it through; INIT shares
`orderTransaction` with it (assumption log 15). -/
def rgborderResponse (P : Params) (c : Cfg) (p0 p1 p2 : Byte) : Response :=
  .executed c (orderTransaction P p0 p1 p2)

/-- The RGBORDER row (R61, R44). -/
def execRgborder (p0 p1 p2 : Byte) (s : State) : Host.Outcome State Fault Refusal :=
  s.answer (rgborderResponse s.params s.cfg p0 p1 p2)

end Sys2Proof.Machine
end

