-- ==== Sys2Proof/Machine/ShowReset.lean ====
section
/-! DEFINITION. SHOW and RESETCHIP (spec/44_show_and_reset.md), and the row of the reserved
opcode 0xA8 (spec/30_encoding.md R50). -/

namespace Sys2Proof.Machine

/-- The trace of SHOW: its transaction, then the length-scaled delay, two delay events
(R35, R86). -/
def showEvents (P : Params) (last : Byte) : List Event :=
  sendFrame P .showStrip ++ [.delay (showDelay P last)]

/-- `SHOW` as a response, never dropped (R86). -/
def showStripResponse (P : Params) (c : Cfg) : Response :=
  withLastIndex c fun last => .executed c (showEvents P last)

/-- `SHOW` (R86). -/
def execShowStrip (s : State) : Host.Outcome State Fault Refusal :=
  s.answer (showStripResponse s.params s.cfg)

/-- The reset pulse: low then high, a hold after each edge; nothing without a line (R88). -/
def resetEvents (P : Params) : List Event :=
  if P.hasResetLine then [.rstLow, .delay P.tRstLowUs, .rstHigh, .delay P.tRstHighUs] else []

/-- `RESETCHIP` as a response: executed with or without a line, `CFG` untouched (R88, R89). -/
def resetchipResponse (P : Params) (c : Cfg) : Response := .executed c (resetEvents P)

/-- `RESETCHIP` (R88). -/
def execResetchip (s : State) : Host.Outcome State Fault Refusal :=
  s.answer (resetchipResponse s.params s.cfg)

/-- The row of the reserved opcode 0xA8 as a response: "no command emits it", and neither its
operand count nor a meaning is given (R50). -/
def reservedA8Response : Response := .refused .reservedOpcode

/-- The row of the reserved opcode 0xA8 (R50). -/
def execReservedA8 (s : State) : Host.Outcome State Fault Refusal :=
  s.answer reservedA8Response

end Sys2Proof.Machine
end

