-- ==== Sys2Proof/Machine/Dispatch.lean ====
section
/-! DEFINITION. The dispatch of an instruction to its meaning. -/

namespace Sys2Proof.Machine

def exec (i : Instr) (s : State) : Host.Outcome State Fault Refusal :=
  match i with
  | .init ledCount t o => Sys2Proof.Machine.execInit ledCount t o s
  | .rgborder p0 p1 p2 => Sys2Proof.Machine.execRgborder p0 p1 p2 s
  | .setrgb r g b => Sys2Proof.Machine.execSetrgb r g b s
  | .setrgbw r g b w => Sys2Proof.Machine.execSetrgbw r g b w s
  | .sethsv hue sat val => Sys2Proof.Machine.execSethsv hue sat val s
  | .setled index => Sys2Proof.Machine.execSetled index s
  | .clearled index => Sys2Proof.Machine.execClearled index s
  | .setall => Sys2Proof.Machine.execSetall s
  | .clearall => Sys2Proof.Machine.execClearall s
  | .setrange startIdx endIdx => Sys2Proof.Machine.execSetrange startIdx endIdx s
  | .setrainbow hue sat val startIdx endIdx step => Sys2Proof.Machine.execSetrainbow hue sat val startIdx endIdx step s
  | .shiftup startIdx endIdx count => Sys2Proof.Machine.execShiftup startIdx endIdx count s
  | .shiftdown startIdx endIdx count => Sys2Proof.Machine.execShiftdown startIdx endIdx count s
  | .copyled fromIdx toIdx => Sys2Proof.Machine.execCopyled fromIdx toIdx s
  | .repeatRange startIdx endIdx count => Sys2Proof.Machine.execRepeatRange startIdx endIdx count s
  | .showStrip => Sys2Proof.Machine.execShowStrip s
  | .gradient startIdx endIdx fromColor toColor => Sys2Proof.Machine.execGradient startIdx endIdx fromColor toColor s
  | .resetchip => Sys2Proof.Machine.execResetchip s
  | .reservedA8 => Sys2Proof.Machine.execReservedA8 s

end Sys2Proof.Machine
end

