-- ==== Sys2Proof/Machine/Step.lean ====
section
/-! DEFINITION. One step of the encoder: one command in, from presentation to completion
(spec/10_state.md R15; spec/20_memory.md R25). -/

namespace Sys2Proof.Machine

/-- Take the next command from the port and run it to completion; with nothing presented the
encoder is idle (R15, R127). -/
def step (s : State) : Host.Outcome State Fault Refusal :=
  match s.fetch with
  | .idle => .next s
  | .refused why => .refused why
  | .command i rest => exec i rest

/-- Present the instruction a word of the opcode table stands for, so that the next step takes it.
The encoder fetches nothing (R15): this is the caller's presentation. A word that is read as no
instruction cannot be presented (R55) and leaves the port as it was (assumption log 16). -/
def State.withFetchWord (s : State) (nbits w : Nat) : State :=
  match decodeTableWord nbits w with
  | some i => s.presentFirst i
  | none => s

end Sys2Proof.Machine
end

