-- ==== Sys2Proof/Safety.lean ====
section
/-! DEFINITION. The terms claims are stated in: what a trace shows (bytes, transactions, waits),
what a legal trace is (spec/20_memory.md R24 to R27; spec/30_encoding.md R49, R50), which indices a
frame carries, and the invariant of a run. -/

namespace Sys2Proof.Machine

/-- The bytes of a trace, in transmission order. -/
def busBytes : List Event → List Byte
  | [] => []
  | .tx b :: es => b :: busBytes es
  | _ :: es => busBytes es

/-- The bits of a byte as the bus carries them, "most significant first" (R30). -/
def bitsMsbFirst (b : Byte) : List Bool := (List.range 8).map fun (k : Nat) => b.getLsbD (7 - k)

/-- The bits of a frame on the bus: the opcode byte's first, then each operand byte's (R42). -/
def frameBits (f : Frame) : List Bool := f.bytes.flatMap bitsMsbFirst

/-- How many transactions a trace opens. -/
def transactionCount (es : List Event) : Nat := es.count .csLow

/-- The time a trace asks the caller to wait in its `DELAY` events, in microseconds (R128); the
byte transfers R128 adds to it are left out (assumption log 20). -/
def waitTotal : List Event → Nat
  | [] => 0
  | .delay n :: es => n + waitTotal es
  | _ :: es => waitTotal es

/-- The bytes of the first transaction of a trace: those between its first `CS_LOW` and the
`CS_HIGH` that follows (R26). -/
def firstTransaction (es : List Event) : List Byte :=
  busBytes (((es.dropWhile fun e => e ≠ .csLow).drop 1).takeWhile fun e => e ≠ .csHigh)

/-- The LED indices a frame carries (R20, R44). -/
def indexBytes : Frame → List Byte
  | .setrgb _ _ _ => []
  | .setrgbw _ _ _ _ => []
  | .sethsv _ _ _ _ => []
  | .setled i => [i]
  | .setall => []
  | .setrange s e => [s, e]
  | .rainbow _ _ _ _ s e _ => [s, e]
  | .init _ _ => []
  | .showStrip => []
  | .shift _ s e _ => [s, e]
  | .copyled f t => [f, t]
  | .repeatRange s e _ => [s, e]
  | .rgborder _ _ _ => []

/-- Whether the hue bytes of a frame stand for a clamped hue (R45). -/
def legalHue (P : Params) (hA hB : Byte) : Bool := decide ((hueOfBytes P hA hB).toNat ≤ hueMax)

/-- The operand bytes the block puts in a frame: clamped hues (R45), an even count byte and one of
the two type bytes (R46, R47), a shift opcode of `P` (R50 c), the payload of `P` (R48). -/
def legalFrame (P : Params) : Frame → Bool
  | .setrgb _ _ _ => true
  | .setrgbw _ _ _ _ => true
  | .sethsv hA hB _ _ => legalHue P hA hB
  | .setled _ => true
  | .setall => true
  | .setrange s e => decide (s.toNat ≤ e.toNat)
  | .rainbow hA hB _ _ s e _ => legalHue P hA hB && decide (s.toNat ≤ e.toNat)
  | .init c t =>
    decide (c.toNat % 2 = 0) && (decide (t = P.typeByteRgb) || decide (t = P.typeByteRgbw))
  | .showStrip => true
  | .shift w s e _ =>
    (decide (w = P.opShiftDownWire) || decide (w = P.opShiftUpWire)) && decide (s.toNat ≤ e.toNat)
  | .copyled _ _ => true
  | .repeatRange s e _ => decide (s.toNat ≤ e.toNat)
  | .rgborder p q r =>
    decide (p = P.orderPayload.p0 ∧ q = P.orderPayload.p1 ∧ r = P.orderPayload.p2)

/-- The pieces a trace is made of: a transaction of one frame, a fused transaction of two, a bare
delay, the reset pulse. -/
inductive Segment where
  | single (f : Frame)
  | fused (f g : Frame)
  | wait (n : Nat)
  | resetPulse
deriving DecidableEq, Repr

/-- The events of a piece. -/
def Segment.events (P : Params) : Segment → List Event
  | .single f => transaction P f.bytes
  | .fused f g => transaction P (f.bytes ++ g.bytes)
  | .wait n => [.delay n]
  | .resetPulse => [.rstLow, .delay P.tRstLowUs, .rstHigh, .delay P.tRstHighUs]

/-- The frames of a piece. -/
def Segment.frames : Segment → List Frame
  | .single f => [f]
  | .fused f g => [f, g]
  | .wait _ => []
  | .resetPulse => []

/-- The pieces that are ever emitted: a legal frame; two frames of a fused row of R49; the delay
of INIT or of SHOW for 1 to 256 LEDs (R38, R87); the pulse where there is a line (R88). -/
def Segment.Legal (P : Params) : Segment → Prop
  | .single f => legalFrame P f = true
  | .fused f g => fuses P f g = true
  | .wait n => n = P.tInitUs ∨ ∃ k, 1 ≤ k ∧ k ≤ 256 ∧ n = P.tLedUs * k
  | .resetPulse => P.hasResetLine = true

/-- The events of pieces one after another. -/
def segmentsEvents (P : Params) (gs : List Segment) : List Event := gs.flatMap (Segment.events P)

/-- A trace made of legal pieces and nothing else: "Exactly these, and no others, are ever
emitted" (R49). -/
def LegalTrace (P : Params) (es : List Event) : Prop :=
  ∃ gs : List Segment, (∀ g ∈ gs, g.Legal P) ∧ es = segmentsEvents P gs

/-- The invariant of a run: a legal trace, and between commands both lines at their idle level
(R40). -/
structure State.Inv (s : State) : Prop where
  trace_legal : LegalTrace s.params s.trace
  cs_high : s.cs = .high
  rst_high : s.rst = .high

/-- Whether an instruction reads `CFG.lastIndex` (R13, R18): ten commands, GRADIENT only when
`end > start`. -/
def readsLastIndex : Instr → Bool
  | .init _ _ _ => false
  | .rgborder _ _ _ => false
  | .setrgb _ _ _ => false
  | .setrgbw _ _ _ _ => false
  | .sethsv _ _ _ => false
  | .setled _ => true
  | .clearled _ => true
  | .setall => false
  | .clearall => false
  | .setrange _ _ => true
  | .setrainbow _ _ _ _ _ _ => true
  | .shiftup _ _ _ => true
  | .shiftdown _ _ _ => true
  | .copyled _ _ => true
  | .repeatRange _ _ _ => true
  | .showStrip => true
  | .gradient st en _ _ => decide (st.toInt < en.toInt)
  | .resetchip => false
  | .reservedA8 => false

/-- The "dropped when" column of R102, for a given `CFG.lastIndex`. -/
def dropsAt (last : Byte) : Instr → Bool
  | .init _ _ _ => false
  | .rgborder _ _ _ => false
  | .setrgb _ _ _ => false
  | .setrgbw _ _ _ _ => false
  | .sethsv _ _ _ => false
  | .setled i => decide (last.toNat < i.toNat)
  | .clearled i => decide (last.toNat < i.toNat)
  | .setall => false
  | .clearall => false
  | .setrange s e => !rangeOk last s e
  | .setrainbow _ _ _ s e _ => !rangeOk last s e
  | .shiftup s e _ => !rangeOk last s e
  | .shiftdown s e _ => !rangeOk last s e
  | .copyled f t => decide (last.toNat < f.toNat) || decide (last.toNat < t.toNat)
  | .repeatRange s e _ => !rangeOk last s e
  | .showStrip => false
  | .gradient st en _ _ => decide (en.toInt < st.toInt)
  | .resetchip => false
  | .reservedA8 => false

/-- Commands run one after another, each on the state the one before left, stopping at the first
refusal: "Commands take effect in the order they are presented" (R15). -/
def runCommands : List Instr → State → Host.Outcome State Fault Refusal
  | [], s => .next s
  | i :: is, s =>
    match exec i s with
    | .next t => runCommands is t
    | .fault f => .fault f
    | .refused why => .refused why

/-- The LED indices of the strip that lie in a gradient's range, ascending: "the integers from
`max(start, 0)` to `min(end, CFG.lastIndex)`" (R93). -/
def visibleIndices (last : Byte) (startIdx endIdx : Int) : List Nat :=
  (List.range (last.toNat + 1)).filter fun (i : Nat) => decide (startIdx ≤ (i : Int) ∧ (i : Int) ≤ endIdx)

/-- The events a next state has beyond those of the state before. -/
def newEvents (s t : State) : List Event := t.trace.drop s.trace.length

end Sys2Proof.Machine
end

