-- ==== Sys2Proof/Certificates/Slice0/Obligations.lean ====
section
/-! DEFINITION. The statements about the encoder, from the numbered rules of spec/. An executed
command is stated as an equation whose next state is the state before with the named fields
changed, so each such statement is also its command's frame: parameters, `CFG`, lines, trace and
port are as before unless named. -/

open Sys2Proof Sys2Proof.Machine

/-! ## Primitives -/

/-- R8: the arithmetic primitives and their worked values. -/
def Obligations.ArithmeticPrimitives : Prop :=
  (∀ h, clampHue h = if h ≤ 359 then h else 359) ∧
  (∀ n, clampCount n = if n ≤ 256 then n else 256) ∧
  (∀ n, (n % 2 = 0 → roundEven n = n) ∧ (n % 2 = 1 → roundEven n = n + 1)) ∧
  (∀ a b : Int, 0 < b → tdiv a b = Int.tdiv a b) ∧
  tdiv 200 7 = 28 ∧ tdiv (-200) 7 = -28 ∧ tdiv (-6) 7 = 0

/-- R69 (derived in the spec from R67): the two hue bytes carry the clamped hue, the high byte is
0 or 1, the clamp changes nothing up to 359, is idempotent and monotone. -/
def Obligations.HueBytesCarryClampedHue : Prop :=
  (∀ hue : Half,
    (hueLow hue).toNat + 256 * (hueHigh hue).toNat = min hue.toNat 359 ∧
    (min hue.toNat 359 ≤ 255 → hueHigh hue = 0) ∧
    (256 ≤ min hue.toNat 359 → hueHigh hue = 1) ∧
    (clampHue hue.toNat = hue.toNat ↔ hue.toNat ≤ 359)) ∧
  (∀ h, clampHue (clampHue h) = clampHue h) ∧
  (∀ h k, h ≤ k → clampHue h ≤ clampHue k)

/-! ## INIT and the RGBORDER frame -/

/-- R59 with its second transaction (the spec's decision D9, R61): INIT with a count of at least 1
writes all four fields of `CFG` and emits its frame, the order frame exactly when it is needed, and
the warm-up delay, in any state. -/
def Obligations.InitWritesCfgAndSends : Prop :=
  ∀ (s : State) (ledCount : Half) (t : LedType) (o : ColorOrder), ledCount ≠ 0 →
    exec (.init ledCount t o) s = .next
      { s with
        cfg := { lastIndex := BitVec.ofNat 8 (min ledCount.toNat 256 - 1),
                 ledType := t, colorOrder := o, valid := true }
        cs := .high
        trace := s.trace ++
          [.csLow, .tx 0xB1,
            .tx (BitVec.ofNat 8 (min ledCount.toNat 256 + min ledCount.toNat 256 % 2)),
            .tx (if t = .rgb then s.params.typeByteRgb else s.params.typeByteRgbw),
            .csHigh, .delay s.params.tCmdUs] ++
          (if t = .rgb ∧ o ≠ s.params.defaultOrder then
            [.csLow, .tx 0xC1, .tx s.params.orderPayload.p0, .tx s.params.orderPayload.p1,
              .tx s.params.orderPayload.p2, .csHigh, .delay s.params.tCmdUs]
           else []) ++
          [.delay s.params.tInitUs] }

/-- R46: the count byte on the wire, the second byte INIT sends. -/
def Obligations.InitCountByteIsEvenRounded : Prop :=
  ∀ (s : State) (ledCount : Half) (t : LedType) (o : ColorOrder), ledCount ≠ 0 →
    ∃ (s' : State) (c : Byte),
      exec (.init ledCount t o) s = .next s' ∧
      (busBytes (newEvents s s'))[1]? = some c ∧
      c.toNat = (min ledCount.toNat 256 + min ledCount.toNat 256 % 2) % 256 ∧
      c.toNat % 2 = 0 ∧
      (c = 0 ↔ min ledCount.toNat 256 = 255 ∨ min ledCount.toNat 256 = 256) ∧
      (c ≠ 0 → c.toNat = min ledCount.toNat 256 ∨ c.toNat = min ledCount.toNat 256 + 1)

/-- R64 (derived in the spec): after INIT the strip has `min(c, 256)` LEDs, the count byte is
within one of that, the number of transactions is two exactly when the order frame is needed, and
the last event is the warm-up delay. The two-transaction reading is the spec's decision D9. -/
def Obligations.InitLaws : Prop :=
  ∀ (s : State) (ledCount : Half) (t : LedType) (o : ColorOrder), ledCount ≠ 0 →
    ∃ (s' : State) (c : Byte),
      exec (.init ledCount t o) s = .next s' ∧
      s'.cfg.valid = true ∧ s'.cfg.lastIndex.toNat + 1 = min ledCount.toNat 256 ∧
      (busBytes (newEvents s s'))[1]? = some c ∧
      (c ≠ 0 → c.toNat - 1 ≤ s'.cfg.lastIndex.toNat + 1 ∧ s'.cfg.lastIndex.toNat + 1 ≤ c.toNat) ∧
      (t = .rgbw ∨ o = s.params.defaultOrder → transactionCount (newEvents s s') = 1) ∧
      (¬(t = .rgbw ∨ o = s.params.defaultOrder) → transactionCount (newEvents s s') = 2) ∧
      (newEvents s s').getLast? = some (.delay s.params.tInitUs)

/-- R63 (the spec's decision D13): a count of 0 is refused, in any state. -/
def Obligations.InitRefusesZeroCount : Prop :=
  ∀ (s : State) (t : LedType) (o : ColorOrder),
    exec (.init 0 t o) s = .refused .reservedLedCount

/-- R62 and R64(f) (the spec's decision D24): INIT consults nothing of the `CFG` before it. -/
def Obligations.ReinitForgetsOldCfg : Prop :=
  ∀ (s₁ s₂ t₁ : State) (ledCount : Half) (t : LedType) (o : ColorOrder),
    s₁.params = s₂.params → exec (.init ledCount t o) s₁ = .next t₁ →
    ∃ t₂, exec (.init ledCount t o) s₂ = .next t₂ ∧ t₂.cfg = t₁.cfg ∧
      newEvents s₂ t₂ = newEvents s₁ t₁

/-- R37 (the spec's decision D24): the very next command sees the `CFG` an INIT wrote. After
`INIT(c, ..)` no command that reads `CFG.lastIndex` is refused; each leaves the state as it is
exactly when the drop condition of R102 holds at `min(c, 256) - 1`, or it is a gradient whose range
misses the indices below `min(c, 256)` (R93); SETLED sends exactly those indices and SHOW waits for
as many LEDs. The drop of a reversed gradient is the spec's decision D14. -/
def Obligations.InitBoundGovernsNextCommand : Prop :=
  ∀ (s s' : State) (ledCount : Half) (t : LedType) (o : ColorOrder),
    exec (.init ledCount t o) s = .next s' →
    (∀ i : Instr, readsLastIndex i = true →
      (∃ s'', exec i s' = .next s'') ∧
      (exec i s' = .next s' ↔
        dropsAt (BitVec.ofNat 8 (min ledCount.toNat 256 - 1)) i = true ∨
        ∃ a e fc tc, i = .gradient a e fc tc ∧ a.toInt < e.toInt ∧
          (e.toInt < 0 ∨ (min ledCount.toNat 256 : Int) ≤ a.toInt))) ∧
    (∀ index : Byte,
      (index.toNat < min ledCount.toNat 256 →
        ∃ s'', exec (.setled index) s' = .next s'' ∧
          busBytes (newEvents s' s'') = [0xA4, index]) ∧
      (min ledCount.toNat 256 ≤ index.toNat → exec (.setled index) s' = .next s')) ∧
    ∃ s'', exec .showStrip s' = .next s'' ∧
      waitTotal (newEvents s' s'') =
        s.params.tCmdUs + s.params.tLedUs * min ledCount.toNat 256

/-- The RGBORDER row of the opcode table, whose frame only INIT sends (R61): as a term of its own
it is that one transaction with the row's operand bytes. That it has a next state at all is the
model's choice (assumption log 15); the command port refuses it. -/
def Obligations.RgborderRowIsOneTransaction : Prop :=
  ∀ (s : State) (p0 p1 p2 : Byte),
    exec (.rgborder p0 p1 p2) s = .next
      { s with
        cs := .high
        trace := s.trace ++
          [.csLow, .tx 0xC1, .tx p0, .tx p1, .tx p2, .csHigh, .delay s.params.tCmdUs] }

/-! ## Colour register -/

/-- R65. -/
def Obligations.SetrgbSendsItsFrame : Prop :=
  ∀ (s : State) (r g b : Byte),
    exec (.setrgb r g b) s = .next
      { s with
        cs := .high
        trace := s.trace ++
          [.csLow, .tx 0xA1, .tx r, .tx g, .tx b, .csHigh, .delay s.params.tCmdUs] }

/-- R66; the channel order `r, g, b, w` is the spec's decision D6. -/
def Obligations.SetrgbwSendsItsFrame : Prop :=
  ∀ (s : State) (r g b w : Byte),
    exec (.setrgbw r g b w) s = .next
      { s with
        cs := .high
        trace := s.trace ++
          [.csLow, .tx 0xA2, .tx r, .tx g, .tx b, .tx w, .csHigh, .delay s.params.tCmdUs] }

/-- R67; the layout hue, sat, val of the frame is the spec's decision D6. -/
def Obligations.SethsvSendsClampedHue : Prop :=
  ∀ (s : State) (hue : Half) (sat val : Byte),
    exec (.sethsv hue sat val) s = .next
      { s with
        cs := .high
        trace := s.trace ++
          (if s.params.hueLowFirst then
            [.csLow, .tx 0xA3, .tx (BitVec.ofNat 8 (min hue.toNat 359 % 256)),
              .tx (BitVec.ofNat 8 (min hue.toNat 359 / 256)), .tx sat, .tx val,
              .csHigh, .delay s.params.tCmdUs]
           else
            [.csLow, .tx 0xA3, .tx (BitVec.ofNat 8 (min hue.toNat 359 / 256)),
              .tx (BitVec.ofNat 8 (min hue.toNat 359 % 256)), .tx sat, .tx val,
              .csHigh, .delay s.params.tCmdUs]) }

/-! ## Assign -/

/-- R70: executed up to `CFG.lastIndex`, dropped above it. The refusal before the first INIT is the
spec's decision D4 (R18). -/
def Obligations.SetledExecutesDropsOrRefuses : Prop :=
  ∀ (s : State) (index : Byte),
    (s.cfg.valid = false → exec (.setled index) s = .refused .uninitialised) ∧
    (s.cfg.valid = true → s.cfg.lastIndex.toNat < index.toNat →
      exec (.setled index) s = .next s) ∧
    (s.cfg.valid = true → index.toNat ≤ s.cfg.lastIndex.toNat →
      exec (.setled index) s = .next
        { s with
          cs := .high
          trace := s.trace ++
            [.csLow, .tx 0xA4, .tx index, .csHigh, .delay s.params.tCmdUs] })

/-- R71: one transaction that holds the zero-colour frame and the assign frame, or nothing. The
refusal before the first INIT is the spec's decision D4 (R18). -/
def Obligations.ClearledExecutesDropsOrRefuses : Prop :=
  ∀ (s : State) (index : Byte),
    (s.cfg.valid = false → exec (.clearled index) s = .refused .uninitialised) ∧
    (s.cfg.valid = true → s.cfg.lastIndex.toNat < index.toNat →
      exec (.clearled index) s = .next s) ∧
    (s.cfg.valid = true → index.toNat ≤ s.cfg.lastIndex.toNat → s.params.clearColor = .rgbw →
      exec (.clearled index) s = .next
        { s with
          cs := .high
          trace := s.trace ++
            [.csLow, .tx 0xA2, .tx 0, .tx 0, .tx 0, .tx 0, .tx 0xA4, .tx index,
              .csHigh, .delay s.params.tCmdUs] }) ∧
    (s.cfg.valid = true → index.toNat ≤ s.cfg.lastIndex.toNat → s.params.clearColor = .rgb →
      exec (.clearled index) s = .next
        { s with
          cs := .high
          trace := s.trace ++
            [.csLow, .tx 0xA1, .tx 0, .tx 0, .tx 0, .tx 0xA4, .tx index,
              .csHigh, .delay s.params.tCmdUs] })

/-- R72. -/
def Obligations.SetallSendsItsFrame : Prop :=
  ∀ (s : State),
    exec .setall s = .next
      { s with
        cs := .high
        trace := s.trace ++ [.csLow, .tx 0xA5, .csHigh, .delay s.params.tCmdUs] }

/-- R73. -/
def Obligations.ClearallSendsFusedFrames : Prop :=
  ∀ (s : State),
    exec .clearall s = .next
      { s with
        cs := .high
        trace := s.trace ++
          (match s.params.clearColor with
           | .rgbw => [.csLow, .tx 0xA2, .tx 0, .tx 0, .tx 0, .tx 0, .tx 0xA5,
               .csHigh, .delay s.params.tCmdUs]
           | .rgb => [.csLow, .tx 0xA1, .tx 0, .tx 0, .tx 0, .tx 0xA5,
               .csHigh, .delay s.params.tCmdUs]) }

/-- R74. The refusal before the first INIT is the spec's decision D4 (R18). -/
def Obligations.SetrangeExecutesDropsOrRefuses : Prop :=
  ∀ (s : State) (a e : Byte),
    (s.cfg.valid = false → exec (.setrange a e) s = .refused .uninitialised) ∧
    (s.cfg.valid = true →
      (e.toNat < a.toNat ∨ s.cfg.lastIndex.toNat < e.toNat ∨ s.cfg.lastIndex.toNat < a.toNat) →
      exec (.setrange a e) s = .next s) ∧
    (s.cfg.valid = true → a.toNat ≤ e.toNat → e.toNat ≤ s.cfg.lastIndex.toNat →
      exec (.setrange a e) s = .next
        { s with
          cs := .high
          trace := s.trace ++
            [.csLow, .tx 0xA6, .tx a, .tx e, .csHigh, .delay s.params.tCmdUs] })

/-- R75: the range check whatever the hue, the hue clamped to 359, `step` forwarded. The refusal
before the first INIT is the spec's decision D4 (R18). -/
def Obligations.SetrainbowExecutesDropsOrRefuses : Prop :=
  ∀ (s : State) (hue : Half) (sat val a e step : Byte),
    (s.cfg.valid = false →
      exec (.setrainbow hue sat val a e step) s = .refused .uninitialised) ∧
    (s.cfg.valid = true →
      (e.toNat < a.toNat ∨ s.cfg.lastIndex.toNat < e.toNat ∨ s.cfg.lastIndex.toNat < a.toNat) →
      exec (.setrainbow hue sat val a e step) s = .next s) ∧
    (s.cfg.valid = true → a.toNat ≤ e.toNat → e.toNat ≤ s.cfg.lastIndex.toNat →
      exec (.setrainbow hue sat val a e step) s = .next
        { s with
          cs := .high
          trace := s.trace ++
            ([.csLow, .tx 0xA7] ++
             (if s.params.hueLowFirst then
               [.tx (BitVec.ofNat 8 (min hue.toNat 359 % 256)),
                .tx (BitVec.ofNat 8 (min hue.toNat 359 / 256))]
              else
               [.tx (BitVec.ofNat 8 (min hue.toNat 359 / 256)),
                .tx (BitVec.ofNat 8 (min hue.toNat 359 % 256))]) ++
             [.tx sat, .tx val, .tx a, .tx e, .tx step,
              .csHigh, .delay s.params.tCmdUs]) })

/-! ## Buffer -/

/-- R79, with its remark that the traces are those of SHIFTDOWN when the two opcodes of `P` agree.
Two opcode parameters are the spec's decision D10. The refusal before the first INIT is the
spec's decision D4 (R18). -/
def Obligations.ShiftupExecutesDropsOrRefuses : Prop :=
  ∀ (s : State) (a e count : Byte),
    (s.cfg.valid = false → exec (.shiftup a e count) s = .refused .uninitialised) ∧
    (s.cfg.valid = true →
      (e.toNat < a.toNat ∨ s.cfg.lastIndex.toNat < e.toNat ∨ s.cfg.lastIndex.toNat < a.toNat) →
      exec (.shiftup a e count) s = .next s) ∧
    (s.cfg.valid = true → a.toNat ≤ e.toNat → e.toNat ≤ s.cfg.lastIndex.toNat →
      exec (.shiftup a e count) s = .next
        { s with
          cs := .high
          trace := s.trace ++
            [.csLow, .tx (if s.params.opShiftUpWire = .dirA then 0xB3 else 0xB4),
              .tx a, .tx e, .tx count, .csHigh, .delay s.params.tCmdUs] }) ∧
    (s.params.opShiftUpWire = s.params.opShiftDownWire →
      exec (.shiftup a e count) s = exec (.shiftdown a e count) s)

/-- R80. The opcode parameter is the spec's decision D10. The refusal before the first INIT is the
spec's decision D4 (R18). -/
def Obligations.ShiftdownExecutesDropsOrRefuses : Prop :=
  ∀ (s : State) (a e count : Byte),
    (s.cfg.valid = false → exec (.shiftdown a e count) s = .refused .uninitialised) ∧
    (s.cfg.valid = true →
      (e.toNat < a.toNat ∨ s.cfg.lastIndex.toNat < e.toNat ∨ s.cfg.lastIndex.toNat < a.toNat) →
      exec (.shiftdown a e count) s = .next s) ∧
    (s.cfg.valid = true → a.toNat ≤ e.toNat → e.toNat ≤ s.cfg.lastIndex.toNat →
      exec (.shiftdown a e count) s = .next
        { s with
          cs := .high
          trace := s.trace ++
            [.csLow, .tx (if s.params.opShiftDownWire = .dirA then 0xB3 else 0xB4),
              .tx a, .tx e, .tx count, .csHigh, .delay s.params.tCmdUs] })

/-- R81: two independent indices in any order. The refusal before the first INIT is the spec's
decision D4 (R18). -/
def Obligations.CopyledExecutesDropsOrRefuses : Prop :=
  ∀ (s : State) (f t : Byte),
    (s.cfg.valid = false → exec (.copyled f t) s = .refused .uninitialised) ∧
    (s.cfg.valid = true →
      (s.cfg.lastIndex.toNat < f.toNat ∨ s.cfg.lastIndex.toNat < t.toNat) →
      exec (.copyled f t) s = .next s) ∧
    (s.cfg.valid = true → f.toNat ≤ s.cfg.lastIndex.toNat → t.toNat ≤ s.cfg.lastIndex.toNat →
      exec (.copyled f t) s = .next
        { s with
          cs := .high
          trace := s.trace ++
            [.csLow, .tx 0xB5, .tx f, .tx t, .csHigh, .delay s.params.tCmdUs] })

/-- R82. The refusal before the first INIT is the spec's decision D4 (R18). -/
def Obligations.RepeatExecutesDropsOrRefuses : Prop :=
  ∀ (s : State) (a e count : Byte),
    (s.cfg.valid = false → exec (.repeatRange a e count) s = .refused .uninitialised) ∧
    (s.cfg.valid = true →
      (e.toNat < a.toNat ∨ s.cfg.lastIndex.toNat < e.toNat ∨ s.cfg.lastIndex.toNat < a.toNat) →
      exec (.repeatRange a e count) s = .next s) ∧
    (s.cfg.valid = true → a.toNat ≤ e.toNat → e.toNat ≤ s.cfg.lastIndex.toNat →
      exec (.repeatRange a e count) s = .next
        { s with
          cs := .high
          trace := s.trace ++
            [.csLow, .tx 0xB6, .tx a, .tx e, .tx count, .csHigh, .delay s.params.tCmdUs] })

/-! ## SHOW, RESETCHIP and the reserved opcode -/

/-- R86: never dropped; two delays, the second scaled by the number of LEDs. The refusal before the
first INIT is the spec's decision D4 (R18). -/
def Obligations.ShowSendsAndWaitsPerLed : Prop :=
  ∀ (s : State),
    (s.cfg.valid = false → exec .showStrip s = .refused .uninitialised) ∧
    (s.cfg.valid = true →
      exec .showStrip s = .next
        { s with
          cs := .high
          trace := s.trace ++
            [.csLow, .tx 0xB2, .csHigh, .delay s.params.tCmdUs,
              .delay (s.params.tLedUs * (s.cfg.lastIndex.toNat + 1))] })

/-- R88 and R89 (the shape of the pulse is the spec's decision D17, its lengths D12): the pulse
where there is a line, nothing where there is none, `CFG` untouched. -/
def Obligations.ResetchipPulsesTheLine : Prop :=
  ∀ (s : State),
    (s.params.hasResetLine = true →
      exec .resetchip s = .next
        { s with
          rst := .high
          trace := s.trace ++
            [.rstLow, .delay s.params.tRstLowUs, .rstHigh, .delay s.params.tRstHighUs] }) ∧
    (s.params.hasResetLine = false → exec .resetchip s = .next s)

/-- R50, R108: the row of 0xA8 has no meaning and is refused by name, in any state. The name is
the model's choice (assumption log 15). -/
def Obligations.ReservedOpcodeRefused : Prop :=
  ∀ (s : State), exec .reservedA8 s = .refused .reservedOpcode

/-! ## GRADIENT -/

/-- R91: a reversed range is dropped before anything is read or sent, in any state (the spec's
decision D14). -/
def Obligations.GradientDropsReversedRange : Prop :=
  ∀ (s : State) (a e : Half) (fc tc : Rgb), e.toInt < a.toInt →
    exec (.gradient a e fc tc) s = .next s

/-- R92: a single point has exactly the trace of SETRGB of its first colour, for every index and
also before the first INIT. -/
def Obligations.GradientSinglePointIsSetrgb : Prop :=
  ∀ (s : State) (k : Half) (fc tc : Rgb),
    exec (.gradient k k fc tc) s = exec (.setrgb fc.r fc.g fc.b) s ∧
    exec (.gradient k k fc tc) s = .next
      { s with
        cs := .high
        trace := s.trace ++
          [.csLow, .tx 0xA1, .tx fc.r, .tx fc.g, .tx fc.b, .csHigh, .delay s.params.tCmdUs] }

/-- R93, R94, R95: on a configured strip a gradient of two points or more sends one fused
transaction for each LED of the strip that lies in its range, with the interpolated colour; the
chip-select line is driven only if there is one. That the LEDs come in ascending order is the
spec's decision D16. -/
def Obligations.GradientPaintsVisibleLeds : Prop :=
  ∀ (s : State) (a e : Half) (fc tc : Rgb), s.cfg.valid = true → a.toInt < e.toInt →
    exec (.gradient a e fc tc) s = .next
      { s with
        cs := if visibleIndices s.cfg.lastIndex a.toInt e.toInt = [] then s.cs else .high
        trace := s.trace ++
          (visibleIndices s.cfg.lastIndex a.toInt e.toInt).flatMap fun (i : Nat) =>
            [.csLow, .tx 0xA1,
              .tx (BitVec.ofInt 8 (fc.r.toNat +
                Int.tdiv ((tc.r.toNat - fc.r.toNat) * (i - a.toInt)) (e.toInt - a.toInt))),
              .tx (BitVec.ofInt 8 (fc.g.toNat +
                Int.tdiv ((tc.g.toNat - fc.g.toNat) * (i - a.toInt)) (e.toInt - a.toInt))),
              .tx (BitVec.ofInt 8 (fc.b.toNat +
                Int.tdiv ((tc.b.toNat - fc.b.toNat) * (i - a.toInt)) (e.toInt - a.toInt))),
              .tx 0xA4, .tx (BitVec.ofNat 8 i), .csHigh, .delay s.params.tCmdUs] }

/-- R105(c), R18 (the spec's decision D4): before the first INIT a gradient of two points or more is
refused. -/
def Obligations.GradientRefusedBeforeInit : Prop :=
  ∀ (s : State) (a e : Half) (fc tc : Rgb), s.cfg.valid = false → a.toInt < e.toInt →
    exec (.gradient a e fc tc) s = .refused .uninitialised

/-- R93, R96(a), (b), (h) (derived in the spec): the emitted offsets are exactly those whose LED is
on the strip, each within the span, and their indices are the visible ones in ascending order. -/
def Obligations.GradientStepsSelectTheStrip : Prop :=
  ∀ (last : Byte) (a e : Int), a < e →
    (∀ x, x ∈ gradientSteps a e last ↔
      (0 ≤ x ∧ x ≤ e - a ∧ 0 ≤ a + x ∧ a + x ≤ last.toNat)) ∧
    (gradientSteps a e last).map (fun x => a + x) =
      (visibleIndices last a e).map fun (i : Nat) => (i : Int)

/-- R96(c), (d), (e), (f) (derived in the spec): a channel stays between its endpoints, so it fits
its byte; it is the endpoints at the ends; it moves one way; equal endpoints give a constant. -/
def Obligations.GradientChannelLaws : Prop :=
  ∀ (f t : Byte) (steps : Int), 0 < steps →
    (∀ x, 0 ≤ x → x ≤ steps →
      (min f.toNat t.toNat : Int) ≤ channelAt f t x steps ∧
      channelAt f t x steps ≤ (max f.toNat t.toNat : Int) ∧
      ((channelByte f t x steps).toNat : Int) = channelAt f t x steps) ∧
    channelAt f t 0 steps = f.toNat ∧ channelAt f t steps steps = t.toNat ∧
    (∀ x y, 0 ≤ x → x ≤ y → y ≤ steps →
      (f.toNat ≤ t.toNat → channelAt f t x steps ≤ channelAt f t y steps) ∧
      (t.toNat ≤ f.toNat → channelAt f t y steps ≤ channelAt f t x steps)) ∧
    (f = t → ∀ x, channelAt f t x steps = f.toNat)

/-- R97 (with the operand width of the spec's decision D15): on 16-bit operands every intermediate
value of the interpolation is small, so exact arithmetic is what any 32-bit machine computes. -/
def Obligations.GradientIntermediatesAreSmall : Prop :=
  ∀ (a e : Half) (last f t : Byte) (x : Int), x ∈ gradientSteps a.toInt e.toInt last →
    e.toInt - a.toInt ≤ 65535 ∧ 0 ≤ x ∧ x ≤ 65535 ∧ -a.toInt ≤ 32768 ∧
    -33023 ≤ e.toInt - last.toNat ∧ e.toInt - last.toNat ≤ 32767 ∧
    (((t.toNat : Int) - f.toNat) * x).natAbs ≤ 16711425

/-- R98: how many transactions a gradient performs, how many bytes they hold, and the bound. That a
reversed range is dropped is the spec's decision D14. -/
def Obligations.GradientTransactionCount : Prop :=
  ∀ (s : State) (a e : Half) (fc tc : Rgb), s.cfg.valid = true →
    ∃ t, exec (.gradient a e fc tc) s = .next t ∧
      (e.toInt < a.toInt → transactionCount (newEvents s t) = 0) ∧
      (e.toInt = a.toInt →
        transactionCount (newEvents s t) = 1 ∧ (busBytes (newEvents s t)).length = 4) ∧
      (a.toInt < e.toInt →
        (transactionCount (newEvents s t) : Int) =
          max 0 (min e.toInt s.cfg.lastIndex.toNat - max a.toInt 0 + 1) ∧
        (busBytes (newEvents s t)).length = 6 * transactionCount (newEvents s t)) ∧
      transactionCount (newEvents s t) ≤ s.cfg.lastIndex.toNat + 1

/-! ## Whole machine: what a command can and cannot do -/

/-- R17: INIT alone writes `CFG`, and it writes all of it; INIT is never dropped but for the
reserved count 0. -/
def Obligations.OnlyInitWritesCfg : Prop :=
  (∀ (i : Instr) (s t : State), exec i s = .next t →
    (∀ n ty o, i ≠ .init n ty o) → t.cfg = s.cfg) ∧
  (∀ (s : State) (n : Half) (ty : LedType) (o : ColorOrder), n ≠ 0 →
    ∃ t, exec (.init n ty o) s = .next t ∧ newEvents s t ≠ [] ∧
      t.cfg = { lastIndex := BitVec.ofNat 8 (min n.toNat 256 - 1), ledType := ty,
                colorOrder := o, valid := true })

/-- R25, R33: no command touches the parameters, the port, or an event already emitted; only
RESETCHIP drives the reset line. -/
def Obligations.CommandFrame : Prop :=
  ∀ (i : Instr) (s t : State), exec i s = .next t →
    t.params = s.params ∧ t.port = s.port ∧ s.trace <+: t.trace ∧
    (i ≠ .resetchip → t.rst = s.rst) ∧
    (i = .resetchip → t.cs = s.cs)

/-- R25 (with the spec's decision D2): for given `P`, `CFG` and command the outcome is unique, and
nothing of the earlier trace, the lines or the port enters it. -/
def Obligations.OutcomeDependsOnPCfgAndCommand : Prop :=
  ∀ (i : Instr) (s₁ s₂ : State), s₁.params = s₂.params → s₁.cfg = s₂.cfg →
    (∀ t₁, exec i s₁ = .next t₁ →
      ∃ t₂, exec i s₂ = .next t₂ ∧ t₂.cfg = t₁.cfg ∧ newEvents s₂ t₂ = newEvents s₁ t₁) ∧
    (∀ why, exec i s₁ = .refused why → exec i s₂ = .refused why)

/-- R102, R108 (the refusals are the spec's decisions D4 and D13; the reserved row's is the model's,
assumption log 15): an instruction is refused exactly in the listed cases, for the listed reason. -/
def Obligations.RefusalsAreExactlyTheListed : Prop :=
  ∀ (i : Instr) (s : State) (why : Refusal),
    exec i s = .refused why ↔
      (why = .uninitialised ∧ readsLastIndex i = true ∧ s.cfg.valid = false) ∨
      (why = .reservedLedCount ∧ ∃ t o, i = .init 0 t o) ∨
      (why = .reservedOpcode ∧ i = .reservedA8)

/-- R100, R115: every command with `CFG.valid` as it requires answers a next state; nothing faults.
The premise names the inputs the spec refuses (decisions D4, D13). -/
def Obligations.EveryCommandCompletes : Prop :=
  ∀ (i : Instr) (s : State), i.wellFormed = true →
    (readsLastIndex i = true → s.cfg.valid = true) → (∀ t o, i ≠ .init 0 t o) →
    ∃ t, exec i s = .next t

/-- R101, with the drop conditions of R102 (GRADIENT's is the spec's decision D14, the premise on
`CFG.valid` its decision D4): a dropped command is total and leaves no mark: the state is the
one before, and whatever runs afterwards runs as if it had never been presented. -/
def Obligations.DroppedCommandLeavesNoMark : Prop :=
  ∀ (i : Instr) (s : State), (readsLastIndex i = true → s.cfg.valid = true) →
    dropsAt s.cfg.lastIndex i = true →
    exec i s = .next s ∧
    ∀ k, Host.Core.run Sys2Proof.core (k + 1) (s.presentFirst i) =
      Host.Core.run Sys2Proof.core k s

/-- R25 with R88, R93 and R102 (resolved in the spec's C9): a command that answers emits nothing
exactly when it is dropped, or is RESETCHIP without a line, or a gradient wholly off the strip. -/
def Obligations.SilentExactlyWhenDroppedOrEmpty : Prop :=
  ∀ (i : Instr) (s t : State), exec i s = .next t →
    (newEvents s t = [] ↔
      dropsAt s.cfg.lastIndex i = true ∨
      (i = .resetchip ∧ s.params.hasResetLine = false) ∨
      (∃ a e fc tc, i = .gradient a e fc tc ∧ a.toInt < e.toInt ∧
        (e.toInt < 0 ∨ (s.cfg.lastIndex.toNat : Int) < a.toInt)))

/-- R34, R78, R85, R96 (derived in the spec), R50: what a command puts on the bus reads as frames of
the protocol, never the reserved opcode, and no index byte exceeds `CFG.lastIndex`. -/
def Obligations.BusBytesAreFramesOnTheStrip : Prop :=
  ∀ (i : Instr) (s t : State), exec i s = .next t →
    ∃ fs, decodeFrames (busBytes (newEvents s t)) = .ok fs ∧
      ∀ f ∈ fs, ∀ b ∈ indexBytes f, b.toNat ≤ s.cfg.lastIndex.toNat

/-- R128, R87 (the lengths are open, the spec's decision D12): what INIT, SHOW and GRADIENT ask the
caller to wait in `DELAY` events. The byte times R128 adds are left out, the model's choice
(assumption log 20). -/
def Obligations.WaitTotals : Prop :=
  (∀ (s t : State) (n : Half) (ty : LedType) (o : ColorOrder),
    exec (.init n ty o) s = .next t →
    waitTotal (newEvents s t) =
      transactionCount (newEvents s t) * s.params.tCmdUs + s.params.tInitUs) ∧
  (∀ (s t : State), exec .showStrip s = .next t →
    waitTotal (newEvents s t) =
      s.params.tCmdUs + s.params.tLedUs * (s.cfg.lastIndex.toNat + 1)) ∧
  (∀ (s t : State) (a e : Half) (fc tc : Rgb), exec (.gradient a e fc tc) s = .next t →
    waitTotal (newEvents s t) = transactionCount (newEvents s t) * s.params.tCmdUs)

/-! ## The command port and the step -/

/-- R15, R25: with a command at the head of the port that no second one overlaps, a step is `exec`
of that command on the state with it taken off the port. The port and the mark of an overlap are the
model's form (assumption log 1, 2). -/
def Obligations.StepRunsThePresentedCommand : Prop :=
  ∀ (s : State) (i : Instr) (rest : List Presented), i.wellFormed = true →
    s.port = { cmd := i, overlapped := false } :: rest →
    step s = exec i { s with port := rest }

/-- What the port does with everything else: nothing presented, the encoder is idle (assumption
log 1; R127); a second command presented while the one at the head runs, refused, with no next
state for either (R113, the spec's decision D22; the mark is assumption log 2); none of the 17
commands, refused (assumption log 15; R41, R55). That an overlap is named before a term that is no
command, and before any reason of the command's own, is assumption log 26. -/
def Obligations.PortIdlesOrRefuses : Prop :=
  (∀ s : State, s.port = [] → step s = .next s) ∧
  (∀ (s : State) (i : Instr) (rest : List Presented),
    s.port = { cmd := i, overlapped := true } :: rest → step s = .refused .concurrent) ∧
  (∀ (s : State) (i : Instr), s.port ≠ [] →
    step (s.presentOverlapping i) = .refused .concurrent) ∧
  (∀ (s : State) (i : Instr) (rest : List Presented), i.wellFormed = false →
    s.port = { cmd := i, overlapped := false } :: rest → step s = .refused .notACommand)

/-- R15 (with the port of assumption log 1): a program of commands, presented at once, runs them one
after another in the order of presentation, each seeing what the one before left. -/
def Obligations.CommandsRunInPresentationOrder : Prop :=
  ∀ (cmds : List Instr) (s : State), s.port = [] → (∀ i ∈ cmds, i.wellFormed = true) →
    Host.Core.run Sys2Proof.core cmds.length (s.present cmds) = runCommands cmds s

/-- R17 along a run: a step never changes the parameters, and once an INIT has completed `CFG` stays
valid. -/
def Obligations.StepKeepsParamsAndValid : Prop :=
  ∀ s t : State, step s = .next t →
    t.params = s.params ∧ (s.cfg.valid = true → t.cfg.valid = true) ∧ s.trace <+: t.trace

/-- R19, R116 (the spec's decision D3): what reset leaves, for every `P`; the value of `P` is open
(assumption log 3). Nothing is presented at reset, so the first step is the idle one (assumption
log 1). -/
def Obligations.ResetLeavesIdleEncoder : Prop :=
  State.reset.params = Config.params ∧
  ∀ P : Params,
    (State.resetWith P).cfg.valid = false ∧ (State.resetWith P).trace = [] ∧
    (State.resetWith P).cs = .high ∧ (State.resetWith P).rst = .high ∧
    (State.resetWith P).params = P ∧ (State.resetWith P).port = [] ∧
    step (State.resetWith P) = .next (State.resetWith P)

/-- The invariant holds at reset (R19, R40, the spec's decision D3), whatever `P` is. That the reset
line is high where `P` has no such line is the model's choice (assumption log 7). -/
def Obligations.InvariantAtReset : Prop := State.reset.Inv ∧ ∀ P, (State.resetWith P).Inv

/-- R26, R40, R49: in every state with a legal trace and both lines idle, a step leaves such a
state: whole transactions only, of the rows of the transaction grammar, with operand bytes the block
sends, each closed by its settle delay, and between them only the delays of INIT and SHOW and the
reset pulse. A command that a second one overlaps has no next state (R113, the spec's decision D22;
the mark is assumption log 2), so no trace of one is claimed. The level of an absent reset line is
assumption log 7. -/
def Obligations.StepKeepsInvariant : Prop :=
  ∀ s t : State, s.Inv → step s = .next t → t.Inv

/-! ## The wire -/

/-- R42, R32, R30: a frame is its opcode byte and as many operand bytes as the opcode alone says
(four each for SETRGBW and SETHSV is the spec's decision D6); its length is one of 1, 2, 3, 4, 5
and 8 bytes; on the bus it is eight bits for each, the opcode's first; the opcode is never the
reserved one (R50). -/
def Obligations.FrameIsOpcodeAndFixedOperands : Prop :=
  (∀ f g : Frame, f.bytes.head? = g.bytes.head? → f.bytes.length = g.bytes.length) ∧
  ∀ f : Frame,
    f.bytes.head? = some f.kind.opcode ∧ f.bytes.head? ≠ some 0xA8 ∧
    f.bytes.length = f.kind.operandCount + 1 ∧
    (f.bytes.length ≤ 5 ∨ f.bytes.length = 8) ∧
    (frameBits f).length = 8 * (f.kind.operandCount + 1) ∧
    (frameBits f).take 8 = bitsMsbFirst f.kind.opcode

/-- R49: the reading of a byte stream into frames is unique: frames written out and read give
themselves, and what is read writes out as the bytes it came from. -/
def Obligations.FrameStreamReadsUniquely : Prop :=
  (∀ fs : List Frame, decodeFrames (framesBytes fs) = .ok fs) ∧
  (∀ (bs : List Byte) (fs : List Frame), decodeFrames bs = .ok fs → framesBytes fs = bs)

/-- R44, R49, R51: for every parameter record, an instruction whose first
transaction tells it whole is read back from its bytes, with every operand at every value. Which
instructions those are is the model's reading of R51 (assumption log 16), and that the row of 0xA8 is
one byte long is its choice (assumption log 25). -/
def Obligations.DecodeEncodeAgree : Prop :=
  ∀ (P : Params) (i : Instr), i.wireExact P = true →
    decode P (encode P i) = .ok (i, [])

/-- The other direction: whatever the decoder reads off a byte stream, the encoder writes those very
bytes, so that no bit of what is read is dropped (R44, R49). The readings are the model's canonical
ones (assumption log 16), the one byte of the 0xA8 row its choice (assumption log 25). -/
def Obligations.DecodedInstructionReencodes : Prop :=
  ∀ (P : Params) (bs rest : List Byte) (i : Instr),
    decode P bs = .ok (i, rest) → encode P i ++ rest = bs

/-- Words of the opcode table, written out from its patterns and the worked examples of the rules,
read as the instructions they stand for (R44; the defaults are the table's, assumption log 4). That
the words are read as SHIFTDOWN, as an INIT of an even count in the default order, as SETRGB and as
a hue of 359, where other commands send the same bytes (R51), is the model's canonical reading
(assumption log 16). -/
def Obligations.TableWordsDecode : Prop :=
  decodeTableWord 24 0x1806B1 = some (.init 6 .rgb .grb) ∧
  decodeTableWord 32 0x0080FFA1 = some (.setrgb 255 128 0) ∧
  decodeTableWord 40 0x80FF0167A3 = some (.sethsv 359 255 128) ∧
  decodeTableWord 56 0x02A400000000A2 = some (.clearled 2) ∧
  decodeTableWord 32 0x030502B4 = some (.shiftdown 2 5 3) ∧
  decodeTableWord 8 0xB2 = some .showStrip

/-- R44, R49, R54, R59, R61: the encoder writes what `exec` sends. Of every instruction that answers
with events, a gradient of two points or more apart, the first transaction holds the bytes `encode`
gives; and all the bytes INIT puts on the bus are those of `encode` for it, followed, when the type is
RGB and the order is not the default, by those for the order frame of `P`. The layouts of
SETRGBW and SETHSV are the spec's decision D6, the order frame's own transaction its D9; the RGBORDER
row as a term of its own is the model's (assumption log 15). -/
def Obligations.EncodeIsFirstTransaction : Prop :=
  (∀ (i : Instr) (s t : State), exec i s = .next t → newEvents s t ≠ [] →
    (∀ a e fc tc, i = .gradient a e fc tc → a = e) →
    firstTransaction (newEvents s t) = encode s.params i) ∧
  ∀ (n : Half) (ty : LedType) (o : ColorOrder) (s t : State), exec (.init n ty o) s = .next t →
    busBytes (newEvents s t) = encode s.params (.init n ty o) ++
      if ty = .rgb ∧ o ≠ s.params.defaultOrder then
        encode s.params (.rgborder s.params.orderPayload.p0 s.params.orderPayload.p1
          s.params.orderPayload.p2)
      else []
end

