-- ==== Sys2Proof/Laws/Decode.lean ====
section
/-! SUPPORT. The reader of a byte stream undoes the writer of a frame, one frame at a time, and the
small facts about opcodes and operand bytes it rests on. -/

namespace Sys2Proof

theorem FrameKind.mem_all (k : FrameKind) : k ∈ FrameKind.all := by cases k <;> decide

/-- No two rows of R43 share an opcode, and each byte in opcode position names its row. -/
@[simp] theorem FrameKind.ofByte_opcode (k : FrameKind) : FrameKind.ofByte k.opcode = some k := by
  cases k <;> rfl

theorem FrameKind.opcode_of_ofByte {b : Byte} {k : FrameKind} (h : FrameKind.ofByte b = some k) :
    k.opcode = b := by
  have := List.find?_some h
  simpa using this

/-- A frame has the operand bytes its row of R43 counts. -/
theorem Frame.length_operands (f : Frame) : f.operands.length = f.kind.operandCount := by
  cases f with
  | shift w _ _ _ => cases w <;> rfl
  | _ => rfl

theorem Frame.kind_ne_reserved (f : Frame) : f.kind ≠ .reservedA8 := by
  cases f with
  | shift w _ _ _ => cases w <;> exact FrameKind.noConfusion
  | _ => exact FrameKind.noConfusion

@[simp] theorem Frame.ofOperands_operands (f : Frame) :
    Frame.ofOperands f.kind f.operands = some f := by
  cases f with
  | shift w _ _ _ => cases w <;> rfl
  | _ => rfl

/-- Reading one frame off its own bytes gives it back, with what follows it (R43, R44). -/
theorem decodeFrame_bytes (f : Frame) (rest : List Byte) :
    decodeFrame (f.bytes ++ rest) = .ok (f, rest) := by
  cases f with
  | shift w _ _ _ => cases w <;> rfl
  | _ => rfl

theorem decodeFrame_nil : decodeFrame [] = .error .noBytes := rfl

theorem Frame.bytes_ne_nil (f : Frame) : f.bytes ≠ [] := by simp [Frame.bytes]

theorem Frame.length_bytes_pos (f : Frame) : 0 < f.bytes.length := by simp [Frame.bytes]

@[simp] theorem framesBytes_nil : framesBytes [] = [] := rfl

@[simp] theorem framesBytes_cons (f : Frame) (fs : List Frame) :
    framesBytes (f :: fs) = f.bytes ++ framesBytes fs := rfl

/-- A frame read off a stream writes out as the bytes it came from (R43). -/
theorem Frame.ofOperands_eq_some {k : FrameKind} {bs : List Byte} {f : Frame}
    (h : Frame.ofOperands k bs = some f) : f.kind = k ∧ f.operands = bs := by
  cases k <;> simp only [Frame.ofOperands] at h
  case reservedA8 => cases h
  all_goals (split at h <;> first | (cases h; exact ⟨rfl, rfl⟩) | cases h)

theorem bytes_of_decodeFrame {bs rest : List Byte} {f : Frame}
    (h : decodeFrame bs = .ok (f, rest)) : f.bytes ++ rest = bs := by
  cases bs with
  | nil => cases h
  | cons b bs =>
    simp only [decodeFrame] at h
    split at h
    · cases h
    · rename_i k hk
      split at h
      · cases h
      split at h
      · rename_i g hg
        cases h
        obtain ⟨h1, h2⟩ := Frame.ofOperands_eq_some hg
        simp [Frame.bytes, h1, h2, FrameKind.opcode_of_ofByte hk]
      · cases h

/-- One more frame on the stream: read it, then the rest. -/
theorem decodeFramesFuel_cons (f : Frame) (bs : List Byte) (fuel : Nat) :
    decodeFramesFuel (fuel + 1) (f.bytes ++ bs) =
      (decodeFramesFuel fuel bs).map (f :: ·) := by
  have hb : f.bytes ++ bs = f.kind.opcode :: (f.operands ++ bs) := rfl
  have hd := decodeFrame_bytes f bs
  rw [hb] at hd ⊢
  simp only [decodeFramesFuel, hd]
  cases decodeFramesFuel fuel bs <;> rfl

theorem decodeFramesFuel_nil (fuel : Nat) : decodeFramesFuel fuel [] = .ok [] := by
  cases fuel <;> rfl

/-- The stream of one frame reads as that frame. -/
theorem decodeFrames_one (f : Frame) : decodeFrames f.bytes = .ok [f] := by
  have h := decodeFramesFuel_cons f [] f.operands.length
  rw [List.append_nil, decodeFramesFuel_nil] at h
  exact h

/-- The stream of a fused transaction reads as its two frames. -/
theorem decodeFrames_two (f g : Frame) : decodeFrames (f.bytes ++ g.bytes) = .ok [f, g] := by
  have h := decodeFramesFuel_cons f g.bytes (f.operands.length + g.operands.length + 1)
  have h2 := decodeFramesFuel_cons g [] (f.operands.length + g.operands.length)
  rw [List.append_nil, decodeFramesFuel_nil] at h2
  rw [h2] at h
  have hl : (f.bytes ++ g.bytes).length = f.operands.length + g.operands.length + 1 + 1 := by
    simp [Frame.bytes]
    omega
  rw [decodeFrames, hl]
  exact h

end Sys2Proof
end

