-- ==== Sys2Proof/Laws/State.lean ====
section
/-! SUPPORT. One lemma per field per update of State, so that no later proof unfolds a record
update. -/

namespace Sys2Proof.Machine

@[simp] theorem State.setCfg_params (s : State) (c : Cfg) : (s.setCfg c).params = s.params := rfl
@[simp] theorem State.setCfg_cfg (s : State) (c : Cfg) : (s.setCfg c).cfg = c := rfl
@[simp] theorem State.setCfg_cs (s : State) (c : Cfg) : (s.setCfg c).cs = s.cs := rfl
@[simp] theorem State.setCfg_rst (s : State) (c : Cfg) : (s.setCfg c).rst = s.rst := rfl
@[simp] theorem State.setCfg_trace (s : State) (c : Cfg) : (s.setCfg c).trace = s.trace := rfl
@[simp] theorem State.setCfg_port (s : State) (c : Cfg) : (s.setCfg c).port = s.port := rfl
@[simp] theorem State.setCfg_self (s : State) : s.setCfg s.cfg = s := rfl

@[simp] theorem State.emit_params (s : State) (es : List Event) :
    (s.emit es).params = s.params := rfl
@[simp] theorem State.emit_cfg (s : State) (es : List Event) : (s.emit es).cfg = s.cfg := rfl
@[simp] theorem State.emit_cs (s : State) (es : List Event) :
    (s.emit es).cs = es.foldl csAfter s.cs := rfl
@[simp] theorem State.emit_rst (s : State) (es : List Event) :
    (s.emit es).rst = es.foldl rstAfter s.rst := rfl
@[simp] theorem State.emit_trace (s : State) (es : List Event) :
    (s.emit es).trace = s.trace ++ es := rfl
@[simp] theorem State.emit_port (s : State) (es : List Event) : (s.emit es).port = s.port := rfl

theorem State.emit_nil (s : State) : s.emit [] = s := by simp [State.emit]

/-- Emitting in two parts is emitting the whole: the events of a command in the order its rule
lists them (R35). -/
theorem State.emit_append (s : State) (xs ys : List Event) :
    s.emit (xs ++ ys) = (s.emit xs).emit ys := by
  simp [State.emit, List.foldl_append, List.append_assoc]

@[simp] theorem State.presentFirst_params (s : State) (i : Instr) :
    (s.presentFirst i).params = s.params := rfl
@[simp] theorem State.presentFirst_cfg (s : State) (i : Instr) :
    (s.presentFirst i).cfg = s.cfg := rfl
@[simp] theorem State.presentFirst_cs (s : State) (i : Instr) : (s.presentFirst i).cs = s.cs := rfl
@[simp] theorem State.presentFirst_rst (s : State) (i : Instr) :
    (s.presentFirst i).rst = s.rst := rfl
@[simp] theorem State.presentFirst_trace (s : State) (i : Instr) :
    (s.presentFirst i).trace = s.trace := rfl
@[simp] theorem State.presentFirst_port (s : State) (i : Instr) :
    (s.presentFirst i).port = { cmd := i, overlapped := false } :: s.port := rfl

@[simp] theorem State.presentOverlapping_params (s : State) (i : Instr) :
    (s.presentOverlapping i).params = s.params := rfl
@[simp] theorem State.presentOverlapping_cfg (s : State) (i : Instr) :
    (s.presentOverlapping i).cfg = s.cfg := rfl
@[simp] theorem State.presentOverlapping_cs (s : State) (i : Instr) :
    (s.presentOverlapping i).cs = s.cs := rfl
@[simp] theorem State.presentOverlapping_rst (s : State) (i : Instr) :
    (s.presentOverlapping i).rst = s.rst := rfl
@[simp] theorem State.presentOverlapping_trace (s : State) (i : Instr) :
    (s.presentOverlapping i).trace = s.trace := rfl
@[simp] theorem State.presentOverlapping_port (s : State) (i : Instr) :
    (s.presentOverlapping i).port = overlapHead i s.port := rfl

@[simp] theorem State.present_params (s : State) (cs : List Instr) :
    (s.present cs).params = s.params := rfl
@[simp] theorem State.present_cfg (s : State) (cs : List Instr) : (s.present cs).cfg = s.cfg := rfl
@[simp] theorem State.present_cs (s : State) (cs : List Instr) : (s.present cs).cs = s.cs := rfl
@[simp] theorem State.present_rst (s : State) (cs : List Instr) : (s.present cs).rst = s.rst := rfl
@[simp] theorem State.present_trace (s : State) (cs : List Instr) :
    (s.present cs).trace = s.trace := rfl
@[simp] theorem State.present_port (s : State) (cs : List Instr) :
    (s.present cs).port = s.port ++ cs.map fun i => { cmd := i, overlapped := false } := rfl

@[simp] theorem State.resetWith_params (P : Params) : (State.resetWith P).params = P := rfl
@[simp] theorem State.resetWith_cfg (P : Params) : (State.resetWith P).cfg = Cfg.reset := rfl
@[simp] theorem State.resetWith_cs (P : Params) : (State.resetWith P).cs = .high := rfl
@[simp] theorem State.resetWith_rst (P : Params) : (State.resetWith P).rst = .high := rfl
@[simp] theorem State.resetWith_trace (P : Params) : (State.resetWith P).trace = [] := rfl
@[simp] theorem State.resetWith_port (P : Params) : (State.resetWith P).port = [] := rfl

end Sys2Proof.Machine
end

