-- ==== Sys2Proof/Laws/Ops.lean ====
section
/-! SUPPORT. One lemma per shared operation saying everything it can do, and the reading of `exec`
as a response to `P`, `CFG` and the command alone (R25). -/

namespace Sys2Proof.Machine

/-- What a transaction leaves of the chip-select line (R26, R40). -/
@[simp] theorem foldl_csAfter_transaction (P : Params) (bs : List Byte) (l : Level) :
    (transaction P bs).foldl csAfter l = .high := by
  simp [transaction, List.foldl_append, csAfter]

theorem foldl_csAfter_tx (bs : List Byte) (l : Level) :
    (bs.map Event.tx).foldl csAfter l = l := by
  induction bs generalizing l with
  | nil => rfl
  | cons b bs ih => simpa [csAfter] using ih l

theorem foldl_rstAfter_tx (bs : List Byte) (l : Level) :
    (bs.map Event.tx).foldl rstAfter l = l := by
  induction bs generalizing l with
  | nil => rfl
  | cons b bs ih => simpa [rstAfter] using ih l

/-- A transaction leaves the reset line alone (R26). -/
@[simp] theorem foldl_rstAfter_transaction (P : Params) (bs : List Byte) (l : Level) :
    (transaction P bs).foldl rstAfter l = l := by
  simp [transaction, List.foldl_append, rstAfter, foldl_rstAfter_tx]

/-- Everything `answer` can do: execute, drop, or refuse (R25). -/
theorem State.answer_eq_next {s t : State} {r : Response} :
    s.answer r = .next t ↔
      (∃ c es, r = .executed c es ∧ t = (s.setCfg c).emit es) ∨ (r = .dropped ∧ t = s) := by
  cases r <;> simp [State.answer, eq_comm]

theorem State.answer_eq_refused {s : State} {r : Response} {why : Refusal} :
    s.answer r = .refused why ↔ r = .refused why := by
  cases r <;> simp [State.answer]

theorem State.answer_ne_fault {s : State} {r : Response} {f : Fault} : s.answer r ≠ .fault f :=
  nomatch f

/-- `checked` executes exactly when `CFG` is valid and the check passes. -/
theorem checked_eq_executed {c c' : Cfg} {ok : Byte → Bool} {es es' : List Event} :
    checked c ok es = .executed c' es' ↔
      c.valid = true ∧ ok c.lastIndex = true ∧ c = c' ∧ es = es' := by
  cases hv : c.valid <;> cases ho : ok c.lastIndex <;>
    simp [checked, withLastIndex, dropUnless, hv, ho]

/-- `checked` drops exactly when `CFG` is valid and the check fails. -/
theorem checked_eq_dropped {c : Cfg} {ok : Byte → Bool} {es : List Event} :
    checked c ok es = .dropped ↔ c.valid = true ∧ ok c.lastIndex = false := by
  cases hv : c.valid <;> cases ho : ok c.lastIndex <;>
    simp [checked, withLastIndex, dropUnless, hv, ho]

/-- `checked` refuses exactly when `CFG` is not valid (R18). -/
theorem checked_eq_refused {c : Cfg} {ok : Byte → Bool} {es : List Event} {why : Refusal} :
    checked c ok es = .refused why ↔ c.valid = false ∧ .uninitialised = why := by
  cases hv : c.valid <;> cases ho : ok c.lastIndex <;>
    simp [checked, withLastIndex, dropUnless, hv, ho]

theorem indexOk_iff {last i : Byte} : indexOk last i = true ↔ i.toNat ≤ last.toNat := by
  simp [indexOk]

/-- The three listed tests are the two that matter (R10). -/
theorem rangeOk_iff {last a e : Byte} :
    rangeOk last a e = true ↔ a.toNat ≤ e.toNat ∧ e.toNat ≤ last.toNat := by
  simp only [rangeOk, Bool.not_eq_true', Bool.or_eq_false_iff, decide_eq_false_iff_not]
  omega

theorem withLastIndex_of_valid {c : Cfg} {k : Byte → Response} (h : c.valid = true) :
    withLastIndex c k = k c.lastIndex := by simp [withLastIndex, h]

theorem withLastIndex_of_invalid {c : Cfg} {k : Byte → Response} (h : c.valid = false) :
    withLastIndex c k = .refused .uninitialised := by simp [withLastIndex, h]

theorem checked_executes {c : Cfg} {ok : Byte → Bool} {es : List Event} (h : c.valid = true)
    (hok : ok c.lastIndex = true) : checked c ok es = .executed c es :=
  checked_eq_executed.2 ⟨h, hok, rfl, rfl⟩

theorem checked_drops {c : Cfg} {ok : Byte → Bool} {es : List Event} (h : c.valid = true)
    (hok : ok c.lastIndex = false) : checked c ok es = .dropped :=
  checked_eq_dropped.2 ⟨h, hok⟩

theorem checked_refuses {c : Cfg} {ok : Byte → Bool} {es : List Event} (h : c.valid = false) :
    checked c ok es = .refused .uninitialised :=
  checked_eq_refused.2 ⟨h, rfl⟩

/-- Every case of the command port (R15, R113, R55). -/
theorem State.fetch_cases (s : State) :
    (s.port = [] ∧ s.fetch = .idle) ∨
    (∃ p rest, s.port = p :: rest ∧ p.overlapped = true ∧ s.fetch = .refused .concurrent) ∨
    (∃ p rest, s.port = p :: rest ∧ p.overlapped = false ∧ p.cmd.wellFormed = false ∧
      s.fetch = .refused .notACommand) ∨
    (∃ p rest, s.port = p :: rest ∧ p.overlapped = false ∧ p.cmd.wellFormed = true ∧
      s.fetch = .command p.cmd { s with port := rest }) := by
  cases h : s.port with
  | nil => simp [State.fetch, h]
  | cons p rest =>
    cases ho : p.overlapped <;> cases hw : p.cmd.wellFormed <;> simp [State.fetch, h, ho, hw]

/-- The response of an instruction, from `P` and `CFG` alone (R25). -/
def response (i : Instr) (P : Params) (c : Cfg) : Response :=
  match i with
  | .init n t o => initResponse P n t o
  | .rgborder p0 p1 p2 => rgborderResponse P c p0 p1 p2
  | .setrgb r g b => setrgbResponse P c r g b
  | .setrgbw r g b w => setrgbwResponse P c r g b w
  | .sethsv h s v => sethsvResponse P c h s v
  | .setled i => setledResponse P c i
  | .clearled i => clearledResponse P c i
  | .setall => setallResponse P c
  | .clearall => clearallResponse P c
  | .setrange a e => setrangeResponse P c a e
  | .setrainbow h s v a e p => setrainbowResponse P c h s v a e p
  | .shiftup a e n => shiftupResponse P c a e n
  | .shiftdown a e n => shiftdownResponse P c a e n
  | .copyled f t => copyledResponse P c f t
  | .repeatRange a e n => repeatRangeResponse P c a e n
  | .showStrip => showStripResponse P c
  | .gradient a e fc tc => gradientResponse P c a.toInt e.toInt fc tc
  | .resetchip => resetchipResponse P c
  | .reservedA8 => reservedA8Response

/-- The step of R25: an instruction's outcome is its response to `P` and `CFG`, and nothing of the
trace, the lines or the port enters it. -/
theorem exec_eq_answer (i : Instr) (s : State) :
    exec i s = s.answer (response i s.params s.cfg) := by
  cases i <;> rfl

/-- What a next state of `exec` is: the response's `CFG` and events, or the state unchanged. -/
theorem exec_eq_next {i : Instr} {s t : State} :
    exec i s = .next t ↔
      (∃ c es, response i s.params s.cfg = .executed c es ∧ t = (s.setCfg c).emit es) ∨
      (response i s.params s.cfg = .dropped ∧ t = s) := by
  rw [exec_eq_answer, State.answer_eq_next]

end Sys2Proof.Machine
end

