-- ==== Sys2Proof/Laws/PerInstr.lean ====
section
/-! SUPPORT. One statement for every instruction as syntax, one lemma per constructor. -/

namespace Sys2Proof.Laws.ReadsBack

/-- The bytes an instruction's row of the opcode table gives it are read as whole frames, exactly
the frames its rule names, whatever `P` is; the reserved opcode is refused by name
(R43, R44, R49, R50). -/
def Statement (i : Instr) : Prop :=
  ∀ P : Params, decodeFrames (encode P i) =
    if i.isReserved then .error .reservedOpcode else .ok (i.frames P)

theorem init (n : Half) (t : LedType) (o : ColorOrder) : Statement (.init n t o) := fun P => by
  simpa [encode, Instr.isReserved, Instr.frames] using decodeFrames_one _

theorem rgborder (p q s : Byte) : Statement (.rgborder p q s) := fun P => by
  simpa [encode, Instr.isReserved, Instr.frames] using decodeFrames_one _

theorem setrgb (r g b : Byte) : Statement (.setrgb r g b) := fun P => by
  simpa [encode, Instr.isReserved, Instr.frames] using decodeFrames_one _

theorem setrgbw (r g b w : Byte) : Statement (.setrgbw r g b w) := fun P => by
  simpa [encode, Instr.isReserved, Instr.frames] using decodeFrames_one _

theorem sethsv (h : Half) (s v : Byte) : Statement (.sethsv h s v) := fun P => by
  simpa [encode, Instr.isReserved, Instr.frames] using decodeFrames_one _

theorem setled (k : Byte) : Statement (.setled k) := fun P => by
  simpa [encode, Instr.isReserved, Instr.frames] using decodeFrames_one _

theorem clearled (k : Byte) : Statement (.clearled k) := fun P => by
  simpa [encode, Instr.isReserved, Instr.frames] using decodeFrames_two (zeroFrame P) (.setled k)

theorem setall : Statement .setall := fun P => by
  simpa [encode, Instr.isReserved, Instr.frames] using decodeFrames_one _

theorem clearall : Statement .clearall := fun P => by
  simpa [encode, Instr.isReserved, Instr.frames] using decodeFrames_two (zeroFrame P) .setall

theorem setrange (a e : Byte) : Statement (.setrange a e) := fun P => by
  simpa [encode, Instr.isReserved, Instr.frames] using decodeFrames_one _

theorem setrainbow (h : Half) (s v a e p : Byte) : Statement (.setrainbow h s v a e p) := fun P => by
  simpa [encode, Instr.isReserved, Instr.frames] using decodeFrames_one _

theorem shiftup (a e c : Byte) : Statement (.shiftup a e c) := fun P => by
  simpa [encode, Instr.isReserved, Instr.frames] using decodeFrames_one _

theorem shiftdown (a e c : Byte) : Statement (.shiftdown a e c) := fun P => by
  simpa [encode, Instr.isReserved, Instr.frames] using decodeFrames_one _

theorem copyled (f t : Byte) : Statement (.copyled f t) := fun P => by
  simpa [encode, Instr.isReserved, Instr.frames] using decodeFrames_one _

theorem repeatRange (a e c : Byte) : Statement (.repeatRange a e c) := fun P => by
  simpa [encode, Instr.isReserved, Instr.frames] using decodeFrames_one _

theorem showStrip : Statement .showStrip := fun P => by
  simpa [encode, Instr.isReserved, Instr.frames] using decodeFrames_one _

theorem gradient (a e : Half) (fc tc : Rgb) : Statement (.gradient a e fc tc) := fun P => by
  by_cases h : a = e
  · simpa [encode, Instr.isReserved, Instr.frames, h] using
      decodeFrames_one (.setrgb fc.r fc.g fc.b)
  · simp [encode, Instr.isReserved, Instr.frames, h, decodeFrames, decodeFramesFuel]

theorem resetchip : Statement .resetchip := fun _ => rfl

theorem reservedA8 : Statement .reservedA8 := fun _ => rfl

end Sys2Proof.Laws.ReadsBack
end

