-- ==== Sys2Proof/Laws/Safety.lean ====
section
/-! SUPPORT. The observers of a trace (bytes, transactions, waits, new events) over the operations
that build traces, and how legal traces are put together. -/

namespace Sys2Proof.Machine

@[simp] theorem newEvents_self (s : State) : newEvents s s = [] := by simp [newEvents]

@[simp] theorem newEvents_emit (s : State) (es : List Event) : newEvents s (s.emit es) = es := by
  simp [newEvents]

@[simp] theorem newEvents_setCfg_emit (s : State) (c : Cfg) (es : List Event) :
    newEvents s ((s.setCfg c).emit es) = es := by simp [newEvents]

@[simp] theorem busBytes_nil : busBytes [] = [] := rfl

@[simp] theorem busBytes_append (xs ys : List Event) :
    busBytes (xs ++ ys) = busBytes xs ++ busBytes ys := by
  induction xs with
  | nil => rfl
  | cons e es ih => cases e <;> simp [busBytes, ih]

theorem busBytes_map_tx (bs : List Byte) : busBytes (bs.map Event.tx) = bs := by
  induction bs with
  | nil => rfl
  | cons b bs ih => simp [busBytes, ih]

@[simp] theorem busBytes_transaction (P : Params) (bs : List Byte) :
    busBytes (transaction P bs) = bs := by
  simp [transaction, busBytes, busBytes_map_tx]

@[simp] theorem busBytes_sendFrame (P : Params) (f : Frame) :
    busBytes (sendFrame P f) = f.bytes := busBytes_transaction P f.bytes

@[simp] theorem busBytes_sendFused (P : Params) (f g : Frame) :
    busBytes (sendFused P f g) = f.bytes ++ g.bytes := busBytes_transaction P _

/-- The first transaction of a trace that begins with one holds that one's bytes, whatever
follows. -/
theorem firstTransaction_transaction_append (P : Params) (bs : List Byte) (es : List Event) :
    firstTransaction (transaction P bs ++ es) = bs := by
  simp [firstTransaction, transaction, busBytes_map_tx]

@[simp] theorem firstTransaction_transaction (P : Params) (bs : List Byte) :
    firstTransaction (transaction P bs) = bs := by
  simpa using firstTransaction_transaction_append P bs []

@[simp] theorem transactionCount_nil : transactionCount [] = 0 := rfl

@[simp] theorem transactionCount_append (xs ys : List Event) :
    transactionCount (xs ++ ys) = transactionCount xs + transactionCount ys := by
  simp [transactionCount]

@[simp] theorem transactionCount_transaction (P : Params) (bs : List Byte) :
    transactionCount (transaction P bs) = 1 := by
  have h : List.count Event.csLow (bs.map Event.tx) = 0 := by
    rw [List.count_eq_zero]
    simp
  simp [transaction, transactionCount, h]

@[simp] theorem waitTotal_nil : waitTotal [] = 0 := rfl

@[simp] theorem waitTotal_append (xs ys : List Event) :
    waitTotal (xs ++ ys) = waitTotal xs + waitTotal ys := by
  induction xs with
  | nil => simp
  | cons e es ih => cases e <;> simp [waitTotal, ih]; omega

theorem waitTotal_map_tx (bs : List Byte) : waitTotal (bs.map Event.tx) = 0 := by
  induction bs with
  | nil => rfl
  | cons b bs ih => simpa [waitTotal] using ih

@[simp] theorem waitTotal_transaction (P : Params) (bs : List Byte) :
    waitTotal (transaction P bs) = P.tCmdUs := by
  simp [transaction, waitTotal, waitTotal_map_tx]

theorem LegalTrace.nil (P : Params) : LegalTrace P [] := ⟨[], by simp, rfl⟩

theorem LegalTrace.append {P : Params} {xs ys : List Event} (hx : LegalTrace P xs)
    (hy : LegalTrace P ys) : LegalTrace P (xs ++ ys) := by
  obtain ⟨gs, hg, rfl⟩ := hx
  obtain ⟨ks, hk, rfl⟩ := hy
  refine ⟨gs ++ ks, fun g hm => ?_, by simp [segmentsEvents]⟩
  rcases List.mem_append.1 hm with h | h
  · exact hg g h
  · exact hk g h

theorem LegalTrace.single {P : Params} {f : Frame} (h : legalFrame P f = true) :
    LegalTrace P (sendFrame P f) :=
  ⟨[.single f], by simpa [Segment.Legal] using h, by
    simp [segmentsEvents, Segment.events, sendFrame]⟩

theorem LegalTrace.fused {P : Params} {f g : Frame} (h : fuses P f g = true) :
    LegalTrace P (sendFused P f g) :=
  ⟨[.fused f g], by simpa [Segment.Legal] using h, by
    simp [segmentsEvents, Segment.events, sendFused]⟩

/-- The lines are idle again after any pieces, legal or not. -/
theorem segments_leave_lines_idle (P : Params) (gs : List Segment) :
    (segmentsEvents P gs).foldl csAfter .high = .high ∧
      (segmentsEvents P gs).foldl rstAfter .high = .high := by
  induction gs with
  | nil => exact ⟨rfl, rfl⟩
  | cons g gs ih =>
    simp only [segmentsEvents, List.flatMap_cons, List.foldl_append] at ih ⊢
    cases g <;> simp [Segment.events, csAfter, rstAfter, ih]

/-- The hue bytes carry the clamped hue, in whichever order they are sent (R45). -/
theorem hueOfBytes_hueAB (P : Params) (h : Half) :
    (hueOfBytes P (hueA P h) (hueB P h)).toNat = clampHue h.toNat := by
  have hle : clampHue h.toNat ≤ 359 := by simp [clampHue, hueMax]
  cases hf : P.hueLowFirst <;>
    simp [hueOfBytes, hueA, hueB, hf, hueLow, hueHigh, trunc8] <;> omega

end Sys2Proof.Machine
end

