-- ==== Sys2Proof/Laws/Step.lean ====
section
/-! SUPPORT. What a step can do, said once, and one step of a run. -/

namespace Sys2Proof.Machine

/-- A step that answers either found nothing presented, or ran one of the 17 commands on the state
with that command taken off the port (R15). -/
theorem step_eq_next {s t : State} (h : step s = .next t) :
    (s.port = [] ∧ t = s) ∨
    ∃ p rest, s.port = p :: rest ∧ p.overlapped = false ∧ p.cmd.wellFormed = true ∧
      exec p.cmd { s with port := rest } = .next t := by
  rcases s.fetch_cases with ⟨hp, hf⟩ | ⟨p, rest, _, _, hf⟩ | ⟨p, rest, _, _, _, hf⟩ |
      ⟨p, rest, hp, ho, hw, hf⟩ <;> simp only [step, hf] at h
  · exact .inl ⟨hp, by simpa using h.symm⟩
  · cases h
  · cases h
  · exact .inr ⟨p, rest, hp, ho, hw, h⟩

/-- A step from a marked head has no next state, so an overlapped command leaves no trace (R113). -/
theorem step_of_overlapped {s : State} {p : Presented} {rest : List Presented}
    (h : s.port = p :: rest) (ho : p.overlapped = true) : step s = .refused .concurrent := by
  simp [step, State.fetch, h, ho]

theorem core_step (s : State) : Sys2Proof.core.step s = step s := rfl

/-- A run takes a step and goes on from there. -/
theorem run_succ_of_step {s t : State} (h : step s = .next t) (k : Nat) :
    Host.Core.run Sys2Proof.core (k + 1) s = Host.Core.run Sys2Proof.core k t := by
  have h' : Sys2Proof.core.step s = .next t := h
  simp only [Host.Core.run, h']

/-- The host's way to place an instruction: when a table word reads as a command, the next step is
that command on the state as it was (assumption log 1). -/
theorem step_withFetchWord {s : State} {nbits w : Nat} {i : Instr}
    (h : decodeTableWord nbits w = some i) (hw : i.wellFormed = true) :
    step (s.withFetchWord nbits w) = exec i s := by
  simp [State.withFetchWord, h, step, State.fetch, hw, State.presentFirst]

end Sys2Proof.Machine
end

