-- ==== Sys2Proof/Tests/Slice0.lean ====
section
/-! SUPPORT. Tests on one command each, their expected results from the worked examples of the rules
and the vectors of spec/95_test_vectors.md (cited by their ids), and a witness for the hypotheses of
every statement that has some. -/

namespace Sys2Proof.Tests

open Sys2Proof Sys2Proof.Machine

/-! ## Helpers -/

/-- `P0` of spec/95: the recommended defaults and a reset line. -/
def P0 : Params := { Params.recommended with hasResetLine := true }

/-- The parameters of Program 5 of spec/95. -/
def P5 : Params :=
  { P0 with hueLowFirst := false, clearColor := .rgb, opShiftUpWire := .dirA,
            hasResetLine := false, defaultOrder := .rgb }

/-- An encoder configured with a given `CFG.lastIndex`, nothing sent yet. -/
def strip (P : Params) (last : Byte) : State :=
  { State.resetWith P with
    cfg := { lastIndex := last, ledType := .rgb, colorOrder := .grb, valid := true } }

/-- The trace of the next state, if there is one. -/
def sent : Host.Outcome State Fault Refusal → Option (List Event)
  | .next t => some t.trace
  | .fault _ => none
  | .refused _ => none

/-- `CFG.lastIndex` of the next state, if there is one. -/
def lastIndexAfter : Host.Outcome State Fault Refusal → Option Byte
  | .next t => some t.cfg.lastIndex
  | .fault _ => none
  | .refused _ => none

/-- The refusal, if there is one. -/
def whyRefused : Host.Outcome State Fault Refusal → Option Refusal
  | .next _ => none
  | .fault _ => none
  | .refused why => some why

/-- `T[b0 b1 ...]` of spec/95 under `P0`. -/
def T (bs : List Byte) : List Event :=
  [.csLow] ++ bs.map Event.tx ++ [.csHigh, .delay 500]

/-! ## Well-formed instructions (R41, R55) -/

theorem test_wellFormed_refuses_order_frame : (Instr.rgborder 3 2 1).wellFormed = false := by decide

theorem test_wellFormed_refuses_reserved : Instr.reservedA8.wellFormed = false := by decide

theorem test_wellFormed_accepts_commands :
    (Instr.init 0 .rgb .rgb).wellFormed = true ∧ Instr.resetchip.wellFormed = true := by decide

/-! ## Decoding words written out bit by bit from R44 and R56 (first byte lowest) -/

theorem test_decode_init :
    decode P0 [0b10110001#8, 0x06, 0x18] = .ok (.init 6 .rgb .grb, []) ∧
    decode P0 [0b10110001#8, 0x00, 0x20] = .ok (.init 256 .rgbw .grb, []) := by decide

theorem test_decode_init_rejects :
    decode P0 [0xB1, 0x05, 0x18] = .error .oddCountByte ∧
    decode P0 [0xB1, 0x06, 0x00] = .error .unknownTypeByte := by decide

theorem test_decode_rgborder :
    decode P0 [0b11000001#8, 3, 2, 1] = .ok (.rgborder 3 2 1, []) := by decide

theorem test_decode_setrgb :
    decode P0 [0b10100001#8, 0xFF, 0x80, 0x00] = .ok (.setrgb 255 128 0, []) := by decide

theorem test_decode_setrgbw :
    decode P0 [0b10100010#8, 1, 2, 3, 4] = .ok (.setrgbw 1 2 3 4, []) := by decide

theorem test_decode_sethsv :
    decode P0 [0b10100011#8, 0x67, 0x01, 0xFF, 0x80] = .ok (.sethsv 359 255 128, []) ∧
    decode P5 [0b10100011#8, 0x01, 0x67, 0xFF, 0x80] = .ok (.sethsv 359 255 128, []) ∧
    decode P0 [0b10100011#8, 0x68, 0x01, 0xFF, 0x80] = .error .hueOutOfRange := by decide

theorem test_decode_setled : decode P0 [0b10100100#8, 4] = .ok (.setled 4, []) := by decide

theorem test_decode_clearled :
    decode P0 [0xA2, 0, 0, 0, 0, 0b10100100#8, 2] = .ok (.clearled 2, []) ∧
    decode P5 [0xA1, 0, 0, 0, 0b10100100#8, 2] = .ok (.clearled 2, []) := by decide

theorem test_decode_setall : decode P0 [0b10100101#8] = .ok (.setall, []) := by decide

theorem test_decode_clearall :
    decode P0 [0xA2, 0, 0, 0, 0, 0b10100101#8] = .ok (.clearall, []) := by decide

theorem test_decode_setrange :
    decode P0 [0b10100110#8, 1, 3] = .ok (.setrange 1 3, []) := by decide

theorem test_decode_setrainbow :
    decode P0 [0b10100111#8, 0x2C, 0x01, 0xFF, 0x64, 0x00, 0x09, 0x0A] =
      .ok (.setrainbow 300 255 100 0 9 10, []) := by decide

theorem test_decode_shifts :
    decode P5 [0b10110011#8, 0, 9, 1] = .ok (.shiftup 0 9 1, []) ∧
    decode P5 [0b10110100#8, 2, 5, 3] = .ok (.shiftdown 2 5 3, []) ∧
    decode P0 [0b10110011#8, 2, 5, 3] = .error .unusedShiftOpcode := by decide

theorem test_decode_copyled :
    decode P0 [0b10110101#8, 9, 0] = .ok (.copyled 9 0, []) := by decide

theorem test_decode_repeat :
    decode P0 [0b10110110#8, 0, 1, 4] = .ok (.repeatRange 0 1 4, []) := by decide

theorem test_decode_show : decode P0 [0b10110010#8] = .ok (.showStrip, []) := by decide

/-- R51: a gradient step tells nothing of its command's range, and RESETCHIP sends no byte. -/
theorem test_decode_no_bytes_of_their_own :
    decode P0 [0xA1, 28, 28, 28, 0xA4, 0] = .error .gradientStep ∧
    decode P0 [] = .error .noBytes := by decide

theorem test_decode_reserved :
    decode P0 [0b10101000#8] = .ok (.reservedA8, []) ∧
    decodeFrame [0xA8, 0, 0] = .error .reservedOpcode := by decide

theorem test_decode_rejects_by_name :
    decode P0 [0xA9, 0] = .error (.unknownOpcode 0xA9) ∧
    decode P0 [0xA6, 1] = .error (.truncated .setrange) := by decide

/-- A fused transaction read as frames (R49). -/
theorem test_decode_frames :
    decodeFrames [0xA1, 28, 28, 28, 0xA4, 0] = .ok [.setrgb 28 28 28, .setled 0] := by decide

/-- The table's words, operand bytes zero beyond what it gives. -/
theorem test_decodeTableWord :
    decodeTableWord 8 0xA4 = some (.setled 0) ∧ decodeTableWord 8 0xC1 = some (.rgborder 0 0 0) ∧
    decodeTableWord 8 0xA8 = some .reservedA8 := by decide

/-! ## INIT -/

/-- D-I3, D-I4, D-I5: type byte, order frame for RGB only. -/
theorem test_init_traces :
    sent (exec (.init 5 .rgb .grb) (State.resetWith P0)) = some (T [0xB1, 6, 0x18] ++ [.delay 20000]) ∧
    sent (exec (.init 5 .rgb .rgb) (State.resetWith P0)) =
      some (T [0xB1, 6, 0x18] ++ T [0xC1, 3, 2, 1] ++ [.delay 20000]) ∧
    sent (exec (.init 5 .rgbw .rgb) (State.resetWith P0)) =
      some (T [0xB1, 6, 0x20] ++ [.delay 20000]) := by decide

/-- D-I1, D-I7, D-I9, D-I11: the bound is the clamped count less one; 255 and 300 send 0. -/
theorem test_init_bounds :
    lastIndexAfter (exec (.init 1 .rgb .grb) (strip P0 9)) = some 0 ∧
    lastIndexAfter (exec (.init 255 .rgb .grb) (strip P0 9)) = some 254 ∧
    lastIndexAfter (exec (.init 300 .rgb .grb) (strip P0 9)) = some 255 ∧
    countByte 255 = 0 ∧ countByte 300 = 0 ∧ countByte 254 = 0xFE ∧
    whyRefused (exec (.init 0 .rgb .grb) (strip P0 9)) = some .reservedLedCount := by decide

/-- Program 5: GRB is the order that needs a frame when the default is RGB. -/
theorem test_rgborder_row :
    sent (exec (.rgborder 3 2 1) (State.resetWith P0)) = some (T [0xC1, 3, 2, 1]) := by decide

/-! ## Colour register -/

/-- D-C2, before any INIT (D-C13), with its events written out (R65). -/
theorem test_setrgb :
    sent (exec (.setrgb 255 128 0) (State.resetWith P0)) =
      some [.csLow, .tx 0xA1, .tx 0xFF, .tx 0x80, .tx 0x00, .csHigh, .delay 500] := by decide

/-- D-C4. -/
theorem test_setrgbw :
    sent (exec (.setrgbw 1 2 3 4) (State.resetWith P0)) = some (T [0xA2, 1, 2, 3, 4]) := by decide

/-- D-C7 to D-C12: both byte orders, the hue at its boundaries. -/
theorem test_sethsv :
    sent (exec (.sethsv 255 10 20) (State.resetWith P0)) = some (T [0xA3, 0xFF, 0, 10, 20]) ∧
    sent (exec (.sethsv 256 10 20) (State.resetWith P0)) = some (T [0xA3, 0, 1, 10, 20]) ∧
    sent (exec (.sethsv 360 255 255) (State.resetWith P0)) = some (T [0xA3, 0x67, 1, 255, 255]) ∧
    sent (exec (.sethsv 400 255 128) (State.resetWith P5)) =
      some (T [0xA3, 1, 0x67, 0xFF, 0x80]) := by decide

/-! ## Assign -/

/-- D-A2, D-A3, D-A20. -/
theorem test_setled :
    sent (exec (.setled 4) (strip P0 4)) = some (T [0xA4, 4]) ∧
    sent (exec (.setled 5) (strip P0 4)) = some [] ∧
    whyRefused (exec (.setled 0) (State.resetWith P0)) = some .uninitialised := by decide

/-- D-A5, D-A6, D-A7. -/
theorem test_clearled :
    sent (exec (.clearled 2) (strip P0 4)) = some (T [0xA2, 0, 0, 0, 0, 0xA4, 2]) ∧
    sent (exec (.clearled 2) (strip P5 4)) = some (T [0xA1, 0, 0, 0, 0xA4, 2]) ∧
    sent (exec (.clearled 5) (strip P0 4)) = some [] ∧
    whyRefused (exec (.clearled 0) (State.resetWith P0)) = some .uninitialised := by decide

/-- D-A8, D-A21. -/
theorem test_setall : sent (exec .setall (State.resetWith P0)) = some (T [0xA5]) := by decide

/-- D-A9, D-A10. -/
theorem test_clearall :
    sent (exec .clearall (State.resetWith P0)) = some (T [0xA2, 0, 0, 0, 0, 0xA5]) ∧
    sent (exec .clearall (State.resetWith P5)) = some (T [0xA1, 0, 0, 0, 0xA5]) := by decide

/-- D-A12 to D-A16: the bounds of the range, and each of the three drops. -/
theorem test_setrange :
    sent (exec (.setrange 0 4) (strip P0 4)) = some (T [0xA6, 0, 4]) ∧
    sent (exec (.setrange 2 2) (strip P0 4)) = some (T [0xA6, 2, 2]) ∧
    sent (exec (.setrange 3 1) (strip P0 4)) = some [] ∧
    sent (exec (.setrange 1 5) (strip P0 4)) = some [] ∧
    sent (exec (.setrange 5 5) (strip P0 4)) = some [] ∧
    whyRefused (exec (.setrange 0 0) (State.resetWith P0)) = some .uninitialised := by decide

/-- D-A17, D-A18, D-A19: hue bytes, the clamp with step 0, a bad range whatever the hue. -/
theorem test_setrainbow :
    sent (exec (.setrainbow 300 255 100 0 4 10) (strip P0 4)) =
      some (T [0xA7, 0x2C, 1, 0xFF, 0x64, 0, 4, 10]) ∧
    sent (exec (.setrainbow 1000 255 100 0 4 0) (strip P0 4)) =
      some (T [0xA7, 0x67, 1, 0xFF, 0x64, 0, 4, 0]) ∧
    sent (exec (.setrainbow 1000 255 100 0 5 10) (strip P0 4)) = some [] ∧
    whyRefused (exec (.setrainbow 0 0 0 0 0 0) (State.resetWith P0)) =
      some .uninitialised := by decide

/-! ## Buffer -/

/-- D-B2, D-B3, D-B6, D-B13. -/
theorem test_shiftup :
    sent (exec (.shiftup 2 5 3) (strip P0 9)) = some (T [0xB4, 2, 5, 3]) ∧
    sent (exec (.shiftup 2 5 3) (strip P5 9)) = some (T [0xB3, 2, 5, 3]) ∧
    sent (exec (.shiftup 5 2 3) (strip P0 9)) = some [] ∧
    whyRefused (exec (.shiftup 0 0 0) (State.resetWith P0)) = some .uninitialised := by decide

/-- D-B1, D-B6. -/
theorem test_shiftdown :
    sent (exec (.shiftdown 2 5 3) (strip P0 9)) = some (T [0xB4, 2, 5, 3]) ∧
    sent (exec (.shiftdown 2 10 3) (strip P0 9)) = some [] ∧
    sent (exec (.shiftdown 10 10 1) (strip P0 9)) = some [] ∧
    whyRefused (exec (.shiftdown 0 0 0) (State.resetWith P0)) = some .uninitialised := by decide

/-- D-B7, D-B8, D-B9: no order between the two indices. -/
theorem test_copyled :
    sent (exec (.copyled 9 0) (strip P0 9)) = some (T [0xB5, 9, 0]) ∧
    sent (exec (.copyled 3 3) (strip P0 9)) = some (T [0xB5, 3, 3]) ∧
    sent (exec (.copyled 0 10) (strip P0 9)) = some [] ∧
    sent (exec (.copyled 10 0) (strip P0 9)) = some [] ∧
    whyRefused (exec (.copyled 0 0) (State.resetWith P0)) = some .uninitialised := by decide

/-- D-B11, D-B12: the count is not checked. -/
theorem test_repeat :
    sent (exec (.repeatRange 0 9 255) (strip P0 9)) = some (T [0xB6, 0, 9, 255]) ∧
    sent (exec (.repeatRange 1 0 4) (strip P0 9)) = some [] ∧
    sent (exec (.repeatRange 0 10 1) (strip P0 9)) = some [] ∧
    whyRefused (exec (.repeatRange 0 0 0) (State.resetWith P0)) = some .uninitialised := by decide

/-! ## SHOW, RESETCHIP, reserved -/

/-- D-S1, D-S2, D-S3, D-S5. -/
theorem test_show :
    sent (exec .showStrip (strip P0 0)) = some (T [0xB2] ++ [.delay 30]) ∧
    sent (exec .showStrip (strip P0 4)) = some (T [0xB2] ++ [.delay 150]) ∧
    sent (exec .showStrip (strip P0 255)) = some (T [0xB2] ++ [.delay 7680]) ∧
    whyRefused (exec .showStrip (State.resetWith P0)) = some .uninitialised := by decide

/-- D-S6, D-S7. -/
theorem test_resetchip :
    sent (exec .resetchip (State.resetWith P0)) =
      some [.rstLow, .delay 100000, .rstHigh, .delay 100000] ∧
    sent (exec .resetchip (State.resetWith P5)) = some [] := by decide

theorem test_reserved :
    whyRefused (exec .reservedA8 (strip P0 4)) = some .reservedOpcode := by decide

/-! ## GRADIENT -/

/-- D-G1 and D-G2: rising and falling, truncated toward zero. -/
theorem test_gradient_rounds_toward_zero :
    sent (exec (.gradient (-2) 5 ⟨0, 0, 0⟩ ⟨100, 100, 100⟩) (strip P0 4)) =
      some (T [0xA1, 0x1C, 0x1C, 0x1C, 0xA4, 0] ++ T [0xA1, 0x2A, 0x2A, 0x2A, 0xA4, 1] ++
        T [0xA1, 0x39, 0x39, 0x39, 0xA4, 2] ++ T [0xA1, 0x47, 0x47, 0x47, 0xA4, 3] ++
        T [0xA1, 0x55, 0x55, 0x55, 0xA4, 4]) ∧
    sent (exec (.gradient (-2) 5 ⟨100, 100, 100⟩ ⟨0, 0, 0⟩) (strip P0 4)) =
      some (T [0xA1, 0x48, 0x48, 0x48, 0xA4, 0] ++ T [0xA1, 0x3A, 0x3A, 0x3A, 0xA4, 1] ++
        T [0xA1, 0x2B, 0x2B, 0x2B, 0xA4, 2] ++ T [0xA1, 0x1D, 0x1D, 0x1D, 0xA4, 3] ++
        T [0xA1, 0x0F, 0x0F, 0x0F, 0xA4, 4]) := by decide

/-- D-G4 to D-G10, D-G13: off the edge, off the strip on either side, single points, reversed, one
LED, before INIT. -/
theorem test_gradient_edges :
    sent (exec (.gradient 3 9 ⟨10, 20, 30⟩ ⟨70, 80, 90⟩) (strip P0 4)) =
      some (T [0xA1, 10, 20, 30, 0xA4, 3] ++ T [0xA1, 20, 30, 40, 0xA4, 4]) ∧
    sent (exec (.gradient 6 9 ⟨1, 2, 3⟩ ⟨4, 5, 6⟩) (strip P0 4)) = some [] ∧
    sent (exec (.gradient (-5) (-1) ⟨1, 2, 3⟩ ⟨4, 5, 6⟩) (strip P0 4)) = some [] ∧
    sent (exec (.gradient 2 2 ⟨9, 8, 7⟩ ⟨1, 1, 1⟩) (strip P0 4)) = some (T [0xA1, 9, 8, 7]) ∧
    sent (exec (.gradient (-7) (-7) ⟨9, 8, 7⟩ ⟨1, 1, 1⟩) (State.resetWith P0)) =
      some (T [0xA1, 9, 8, 7]) ∧
    sent (exec (.gradient 4 2 ⟨1, 2, 3⟩ ⟨4, 5, 6⟩) (State.resetWith P0)) = some [] ∧
    sent (exec (.gradient 0 1 ⟨0, 0, 0⟩ ⟨255, 255, 255⟩) (strip P0 0)) =
      some (T [0xA1, 0, 0, 0, 0xA4, 0]) ∧
    whyRefused (exec (.gradient 0 4 ⟨0, 0, 0⟩ ⟨1, 1, 1⟩) (State.resetWith P0)) =
      some .uninitialised := by decide

/-- D-G12: the widest operands, first and last colour, and the bounds of `s`. -/
theorem test_gradient_widest :
    gradientLo (-32768) = 32768 ∧ gradientHi (-32768) 32767 255 = 33023 ∧
    colorAt ⟨0, 255, 7⟩ ⟨255, 0, 7⟩ 32768 65535 = ⟨127, 128, 7⟩ ∧
    colorAt ⟨0, 255, 7⟩ ⟨255, 0, 7⟩ 33023 65535 = ⟨128, 127, 7⟩ := by decide

/-! ## The command port and the step -/

/-- Nothing presented, a command in turn, one presented too early, and two terms that are no
command. -/
theorem test_step_port :
    sent (step (strip P0 4)) = some [] ∧
    sent (step ((strip P0 4).present [.setled 4, .setall])) = some (T [0xA4, 4]) ∧
    whyRefused (step (((strip P0 4).present [.setall]).presentOverlapping .showStrip)) =
      some .concurrent ∧
    whyRefused (step (((State.resetWith P0).present [.setled 0]).presentOverlapping .setall)) =
      some .concurrent ∧
    whyRefused (step ((strip P0 4).present [.rgborder 3 2 1])) = some .notACommand ∧
    whyRefused (step ((strip P0 4).present [.reservedA8])) = some .notACommand := by decide

/-- A table word placed for the next step is what the next step runs, first after reset too. -/
theorem test_withFetchWord :
    sent (step ((strip P0 4).withFetchWord 16 0x04A4)) = some (T [0xA4, 4]) ∧
    sent (step ((State.resetWith P0).withFetchWord 8 0xA5)) = some (T [0xA5]) := by decide

/-! ## Witnesses: for each statement with hypotheses, values that meet them all -/

/-- HueBytesCarryClampedHue: both sides of 255 and of 359. -/
theorem test_witness_hue_bytes :
    min (255 : Half).toNat 359 ≤ 255 ∧ 256 ≤ min (256 : Half).toNat 359 ∧
    (359 : Half).toNat ≤ 359 ∧ ¬ (360 : Half).toNat ≤ 359 := by decide

/-- ArithmeticPrimitives: an even and an odd count, a positive divisor with both signs. -/
theorem test_witness_arithmetic : roundEven 6 = 6 ∧ roundEven 5 = 6 ∧ tdiv (-200) 7 = -28 := by decide

/-- InitWritesCfgAndSends, InitCountByteIsEvenRounded, InitLaws, OnlyInitWritesCfg: counts at their
ends, with and without an order frame; a count byte that is 0 and one that is not. -/
theorem test_witness_init :
    (1 : Half) ≠ 0 ∧ (65535 : Half) ≠ 0 ∧ countByte 1 ≠ 0 ∧ countByte 65535 = 0 ∧
    (LedType.rgb = .rgbw ∨ ColorOrder.grb = P0.defaultOrder) ∧
    ¬ (LedType.rgb = .rgbw ∨ ColorOrder.rgb = P0.defaultOrder) := by decide

/-- ReinitForgetsOldCfg, OutcomeDependsOnPCfgAndCommand: two states that agree in what they must
and differ elsewhere, on which commands answer and are refused. -/
theorem test_witness_two_states :
    (strip P0 4).params = (State.resetWith P0).params ∧
    sent (exec (.init 5 .rgb .grb) (strip P0 4)) = some (T [0xB1, 6, 0x18] ++ [.delay 20000]) ∧
    ((strip P0 4).emit [.delay 1]).params = (strip P0 4).params ∧
    ((strip P0 4).emit [.delay 1]).cfg = (strip P0 4).cfg ∧
    (strip P0 4).emit [.delay 1] ≠ strip P0 4 ∧
    sent (exec (.setled 4) (strip P0 4)) = some (T [0xA4, 4]) ∧
    whyRefused (exec (.init 0 .rgb .grb) (strip P0 4)) = some .reservedLedCount := by decide

/-- InitBoundGovernsNextCommand: after INIT(3) index 2 is on the strip and 3 is not (D-I10); commands
that read the bound, one that drops at it, one that does not, and gradients that just miss the strip
on either side or just reach it. -/
theorem test_witness_init_bound :
    exec (.init 3 .rgb .grb) (strip P0 255) =
      .next (((strip P0 255).setCfg ⟨2, .rgb, .grb, true⟩).emit (T [0xB1, 4, 0x18] ++ [.delay 20000])) ∧
    (2 : Byte).toNat < min (3 : Half).toNat 256 ∧ min (3 : Half).toNat 256 ≤ (3 : Byte).toNat ∧
    readsLastIndex (.setrange 1 3) = true ∧ dropsAt 2 (.setrange 1 3) = true ∧
    dropsAt 2 (.setrange 1 2) = false ∧
    readsLastIndex (.gradient 3 5 ⟨0, 0, 0⟩ ⟨1, 1, 1⟩) = true ∧
    sent (exec (.gradient 3 5 ⟨0, 0, 0⟩ ⟨1, 1, 1⟩) (strip P0 2)) = some [] ∧
    sent (exec (.gradient (-5) (-1) ⟨0, 0, 0⟩ ⟨1, 1, 1⟩) (strip P0 2)) = some [] ∧
    sent (exec (.gradient 2 5 ⟨0, 0, 0⟩ ⟨1, 1, 1⟩) (strip P0 2)) = some (T [0xA1, 0, 0, 0, 0xA4, 2]) :=
  ⟨rfl, by decide⟩

/-- The drop, execute and refuse clauses of SETLED, CLEARLED, COPYLED, GradientRefusedBeforeInit
and SHOW: values on both sides of `CFG.lastIndex`, both colours of the zero frame. -/
theorem test_witness_index_clauses :
    (State.resetWith P0).cfg.valid = false ∧ (strip P0 4).cfg.valid = true ∧
    (strip P0 4).cfg.lastIndex.toNat < (5 : Byte).toNat ∧
    (4 : Byte).toNat ≤ (strip P0 4).cfg.lastIndex.toNat ∧
    (0 : Byte).toNat ≤ (strip P0 4).cfg.lastIndex.toNat ∧
    (strip P0 4).params.clearColor = .rgbw ∧ (strip P5 4).params.clearColor = .rgb ∧
    (0 : Half).toInt < (1 : Half).toInt := by decide

/-- The clauses of the range commands: each way to fail the range, and a range of the whole strip;
shift opcodes that agree. -/
theorem test_witness_range_clauses :
    (1 : Byte).toNat < (3 : Byte).toNat ∧ (strip P0 4).cfg.lastIndex.toNat < (5 : Byte).toNat ∧
    (0 : Byte).toNat ≤ (4 : Byte).toNat ∧ (4 : Byte).toNat ≤ (strip P0 4).cfg.lastIndex.toNat ∧
    P0.opShiftUpWire = P0.opShiftDownWire := by decide

/-- ResetchipPulsesTheLine: with and without a line. -/
theorem test_witness_reset_line :
    (State.resetWith P0).params.hasResetLine = true ∧
    (State.resetWith P5).params.hasResetLine = false := by decide

/-- The gradient statements: a reversed, a single-point and a proper range; a range that misses the
strip on either side. -/
theorem test_witness_gradient_ranges :
    (2 : Half).toInt < (4 : Half).toInt ∧ (-2 : Half).toInt < (5 : Half).toInt ∧
    (7 : Half).toInt = (7 : Half).toInt ∧ (strip P0 4).cfg.valid = true ∧
    visibleIndices 4 (-2) 5 = [0, 1, 2, 3, 4] ∧ visibleIndices 4 6 9 = [] ∧
    gradientSteps (-2) 5 4 = [2, 3, 4, 5, 6] ∧ (0 : Int) < 7 := by decide

/-- GradientIntermediatesAreSmall: the largest offset of the widest span that reaches the strip. -/
theorem test_witness_gradient_offset :
    33023 - (32768 : Int) < 256 ∧ (6 : Int) ∈ gradientSteps (-2 : Half).toInt (5 : Half).toInt 4 := by
  decide

/-- FrameIsOpcodeAndFixedOperands: two frames of one opcode, and the bit pattern of 0xA1 in R56. -/
theorem test_witness_frame_bits :
    (Frame.setled 1).bytes.head? = (Frame.setled 2).bytes.head? ∧
    bitsMsbFirst 0xA1 = [true, false, true, false, false, false, false, true] := by decide

/-- GradientChannelLaws: offsets inside a span, rising, falling and constant channels. -/
theorem test_witness_channel :
    (0 : Int) ≤ 2 ∧ (2 : Int) ≤ 7 ∧ (0 : Byte).toNat ≤ (100 : Byte).toNat ∧
    channelAt 0 100 2 7 = 28 ∧ channelAt 100 0 2 7 = 72 ∧ channelAt 9 9 2 7 = 9 := by decide

/-- OnlyInitWritesCfg, CommandFrame, BusBytesAreFramesOnTheStrip, WaitTotals: commands that answer,
RESETCHIP and one that is not. -/
theorem test_witness_next_states :
    exec .setall (strip P0 4) = .next ((strip P0 4).emit (T [0xA5])) ∧
    (∀ n ty o, Instr.setall ≠ .init n ty o) ∧ Instr.setall ≠ .resetchip ∧
    exec .resetchip (strip P5 4) = .next (strip P5 4) ∧
    exec .showStrip (strip P0 4) = .next ((strip P0 4).emit (T [0xB2] ++ [.delay 150])) ∧
    exec (.gradient 7 7 ⟨9, 8, 7⟩ ⟨1, 1, 1⟩) (strip P0 4) =
      .next ((strip P0 4).emit (T [0xA1, 9, 8, 7])) :=
  ⟨rfl, fun _ _ _ h => Instr.noConfusion h, fun h => Instr.noConfusion h, rfl, rfl, rfl⟩

/-- RefusalsAreExactlyTheListed, EveryCommandCompletes: each reason for a refusal, and a command
that meets every premise of completion. -/
theorem test_witness_completion :
    readsLastIndex (.setled 0) = true ∧ (State.resetWith P0).cfg.valid = false ∧
    (Instr.setled 0).wellFormed = true ∧ (strip P0 4).cfg.valid = true ∧
    (∀ t o, Instr.setled 0 ≠ .init 0 t o) :=
  ⟨by decide, by decide, by decide, by decide, fun _ _ h => Instr.noConfusion h⟩

/-- DroppedCommandLeavesNoMark, SilentExactlyWhenDroppedOrEmpty: a drop that reads `CFG`, one that
does not and stands before the first INIT. -/
theorem test_witness_drops :
    readsLastIndex (.setled 5) = true ∧ (strip P0 4).cfg.valid = true ∧
    dropsAt (strip P0 4).cfg.lastIndex (.setled 5) = true ∧
    readsLastIndex (.gradient 4 2 ⟨1, 2, 3⟩ ⟨4, 5, 6⟩) = false ∧
    dropsAt (State.resetWith P0).cfg.lastIndex (.gradient 4 2 ⟨1, 2, 3⟩ ⟨4, 5, 6⟩) = true ∧
    sent (exec (.setled 5) (strip P0 4)) = some [] := by decide

/-- StepRunsThePresentedCommand, PortIdlesOrRefuses, CommandsRunInPresentationOrder: each kind of
port, a well-formed program. -/
theorem test_witness_port :
    ((strip P0 4).presentFirst .setall).port = { cmd := .setall, overlapped := false } :: [] ∧
    Instr.setall.wellFormed = true ∧ (strip P0 4).port = [] ∧
    (((strip P0 4).present [.setall]).presentOverlapping .showStrip).port =
      { cmd := .setall, overlapped := true } :: [{ cmd := .showStrip, overlapped := false }] ∧
    ((strip P0 4).presentFirst (.rgborder 3 2 1)).port =
      { cmd := .rgborder 3 2 1, overlapped := false } :: [] ∧
    (Instr.rgborder 3 2 1).wellFormed = false ∧
    (∀ i ∈ [Instr.setled 4, .setall], i.wellFormed = true) := by decide

/-- StepKeepsInvariant, StepKeepsParamsAndValid: a state with the invariant, configured, from which
a step runs a command that sends something. -/
theorem test_witness_invariant_step :
    ((strip P0 4).presentFirst .setall).Inv ∧
    step ((strip P0 4).presentFirst .setall) = .next ((strip P0 4).emit (T [0xA5])) ∧
    ((strip P0 4).presentFirst .setall).cfg.valid = true :=
  ⟨⟨⟨[], fun _ h => absurd h (List.not_mem_nil), rfl⟩, rfl, rfl⟩, rfl, rfl⟩

/-- DecodeEncodeAgree: the ends of the counts and hues that are told whole. -/
theorem test_witness_wire_exact :
    (Instr.init 2 .rgb .grb).wireExact P0 = true ∧
    (Instr.init 256 .rgbw .grb).wireExact P0 = true ∧
    (Instr.sethsv 359 0 0).wireExact P0 = true ∧ (Instr.sethsv 360 0 0).wireExact P0 = false ∧
    (Instr.shiftup 0 0 0).wireExact P5 = true ∧ (Instr.clearled 255).wireExact P0 = true := by decide

/-- EncodeIsFirstTransaction: a fused transaction, INIT with and without the order frame, and a
gradient of a single point, all with events (D-A5, D-I3, D-I4). -/
theorem test_witness_first_transaction :
    sent (exec (.clearled 2) (strip P0 4)) = some (T [0xA2, 0, 0, 0, 0, 0xA4, 2]) ∧
    encode P0 (.clearled 2) = [0xA2, 0, 0, 0, 0, 0xA4, 2] ∧
    firstTransaction (T [0xB1, 6, 0x18] ++ T [0xC1, 3, 2, 1] ++ [.delay 20000]) = [0xB1, 6, 0x18] ∧
    encode P0 (.init 5 .rgb .rgb) = [0xB1, 6, 0x18] ∧ encode P0 (.rgborder 3 2 1) = [0xC1, 3, 2, 1] ∧
    encode P0 (.gradient 7 7 ⟨1, 2, 3⟩ ⟨4, 5, 6⟩) = [0xA1, 1, 2, 3] ∧
    sent (exec (.gradient 7 7 ⟨1, 2, 3⟩ ⟨4, 5, 6⟩) (strip P0 4)) = some (T [0xA1, 1, 2, 3]) := by decide

/-- DecodedInstructionReencodes: a stream with something after the instruction. -/
theorem test_witness_decode_rest :
    decode P0 [0xA4, 4, 0xB2] = .ok (.setled 4, [0xB2]) := by decide

/-- FrameStreamReadsUniquely: a stream of two frames. -/
theorem test_witness_frame_stream :
    decodeFrames [0xA5, 0xB5, 9, 0] = .ok [.setall, .copyled 9 0] := by decide

end Sys2Proof.Tests
end

section
/-! The arithmetic primitives of spec/00_scope.md R8: one equation for each, and the obligation
that collects them. -/

namespace Sys2Proof.Machine

theorem clampHue_eq_ite (h : Nat) : clampHue h = if h ≤ 359 then h else 359 :=
  Nat.min_def

theorem clampCount_eq_ite (n : Nat) : clampCount n = if n ≤ 256 then n else 256 :=
  Nat.min_def

theorem roundEven_of_even {n : Nat} (h : n % 2 = 0) : roundEven n = n := by
  simp [roundEven, h]

theorem roundEven_of_odd {n : Nat} (h : n % 2 = 1) : roundEven n = n + 1 := by
  simp [roundEven, h]

/-- R8 defines `tdiv` by the floor of a nonnegative quotient and its negation; Lean's truncating
division is odd in its dividend and agrees with the floor on nonnegative dividends, so the two are
one function, whatever the divisor. -/
theorem tdiv_eq_intTdiv (a b : Int) : tdiv a b = Int.tdiv a b := by
  unfold tdiv
  split
  · next ha => exact (Int.tdiv_eq_ediv_of_nonneg ha).symm
  · next ha =>
    have hneg : 0 ≤ -a := by omega
    calc -((-a) / b) = -((-a).tdiv b) := by rw [Int.tdiv_eq_ediv_of_nonneg hneg]
      _ = a.tdiv b := by rw [Int.neg_tdiv, Int.neg_neg]

/-- Settles O1: each primitive by its equation, the worked values by evaluation. -/
theorem arithmeticPrimitives : Obligations.ArithmeticPrimitives :=
  ⟨clampHue_eq_ite, clampCount_eq_ite, fun _ => ⟨roundEven_of_even, roundEven_of_odd⟩,
    fun a b _ => tdiv_eq_intTdiv a b, by decide, by decide, by decide⟩

end Sys2Proof.Machine
end

section
/-! What a command does to the state, once for all instructions: the frame of `exec`, the writing of
`CFG` (spec/10_state.md R13, R17), and that what waits on the port plays no part (R25). -/

namespace Sys2Proof.Machine

theorem exec_params {i : Instr} {s t : State} (h : exec i s = .next t) : t.params = s.params := by
  obtain ⟨c, es, -, rfl⟩ | ⟨-, rfl⟩ := exec_eq_next.1 h <;> simp

theorem exec_port {i : Instr} {s t : State} (h : exec i s = .next t) : t.port = s.port := by
  obtain ⟨c, es, -, rfl⟩ | ⟨-, rfl⟩ := exec_eq_next.1 h <;> simp

theorem exec_trace_prefix {i : Instr} {s t : State} (h : exec i s = .next t) :
    s.trace <+: t.trace := by
  obtain ⟨c, es, -, rfl⟩ | ⟨-, rfl⟩ := exec_eq_next.1 h <;> simp

theorem cfg_of_checked_executed {c c' : Cfg} {ok : Byte → Bool} {es es' : List Event}
    (h : checked c ok es = .executed c' es') : c' = c := by
  obtain ⟨-, -, hc, -⟩ := checked_eq_executed.1 h
  exact hc.symm

theorem cfg_of_withLastIndex_executed {c c' : Cfg} {es : Byte → List Event} {es' : List Event}
    (h : (withLastIndex c fun last => .executed c (es last)) = .executed c' es') : c' = c := by
  cases hv : c.valid with
  | false => rw [withLastIndex_of_invalid hv] at h; cases h
  | true => rw [withLastIndex_of_valid hv] at h; cases h; rfl

/-- The three stages of R90 for `CFG`: a drop, a single point, a span that reads `CFG`. -/
theorem cfg_of_gradient_executed {P : Params} {c c' : Cfg} {a e : Int} {fc tc : Rgb}
    {es : List Event} (h : gradientResponse P c a e fc tc = .executed c' es) : c' = c := by
  unfold gradientResponse at h
  split at h
  · cases h
  · split at h
    · cases h; rfl
    · exact cfg_of_withLastIndex_executed h

/-- R17 for responses: the index-checked commands, the ones that always execute, and the two that
read `CFG.lastIndex` without a check. -/
theorem response_cfg_of_not_init {i : Instr} {P : Params} {c c' : Cfg} {es : List Event}
    (hi : ∀ n ty o, i ≠ .init n ty o) (h : response i P c = .executed c' es) : c' = c := by
  cases i with
  | init n ty o => exact absurd rfl (hi n ty o)
  | setled | clearled | setrange | setrainbow | shiftup | shiftdown | copyled | repeatRange =>
    simp only [response] at h
    exact cfg_of_checked_executed h
  | rgborder | setrgb | setrgbw | sethsv | setall | clearall | resetchip => cases h; rfl
  | showStrip => exact cfg_of_withLastIndex_executed h
  | gradient => exact cfg_of_gradient_executed h
  | reservedA8 => cases h

theorem exec_cfg_of_not_init {i : Instr} {s t : State} (hi : ∀ n ty o, i ≠ .init n ty o)
    (h : exec i s = .next t) : t.cfg = s.cfg := by
  obtain ⟨c, es, hr, rfl⟩ | ⟨-, rfl⟩ := exec_eq_next.1 h
  · simpa using response_cfg_of_not_init hi hr
  · rfl

theorem exec_init_of_ne_zero {n : Half} (hn : n ≠ 0) (ty : LedType) (o : ColorOrder) (s : State) :
    exec (.init n ty o) s =
      .next ((s.setCfg (initCfg n ty o)).emit (initEvents s.params n ty o)) :=
  exec_eq_next.2 (.inl ⟨_, _, if_neg hn, rfl⟩)

theorem exec_init_zero (ty : LedType) (o : ColorOrder) (s : State) :
    exec (.init 0 ty o) s = .refused .reservedLedCount := rfl

theorem initEvents_ne_nil (P : Params) (n : Half) (ty : LedType) (o : ColorOrder) :
    initEvents P n ty o ≠ [] := by
  simp [initEvents]

theorem exec_init_valid {n : Half} {ty : LedType} {o : ColorOrder} {s t : State}
    (h : exec (.init n ty o) s = .next t) : t.cfg.valid = true := by
  by_cases hn : n = 0
  · rw [hn, exec_init_zero] at h; cases h
  · rw [exec_init_of_ne_zero hn] at h; cases h; rfl

theorem exec_valid {i : Instr} {s t : State} (h : exec i s = .next t)
    (hv : s.cfg.valid = true) : t.cfg.valid = true := by
  by_cases hi : ∀ n ty o, i ≠ .init n ty o
  · rwa [exec_cfg_of_not_init hi h]
  · push Not at hi
    obtain ⟨n, ty, o, rfl⟩ := hi
    exact exec_init_valid h

/-- A command runs past what waits behind it: the commands on the port stay there, and nothing of
the next state depends on them (R25). -/
theorem exec_present_of_next {i : Instr} {s t : State} (h : exec i s = .next t)
    (cs : List Instr) : exec i (s.present cs) = .next (t.present cs) := by
  refine exec_eq_next.2 ?_
  obtain ⟨c, es, hr, rfl⟩ | ⟨hr, rfl⟩ := exec_eq_next.1 h
  · exact .inl ⟨c, es, hr, rfl⟩
  · exact .inr ⟨hr, rfl⟩

theorem exec_present_of_refused {i : Instr} {s : State} {why : Refusal}
    (h : exec i s = .refused why) (cs : List Instr) : exec i (s.present cs) = .refused why := by
  rw [exec_eq_answer, State.answer_eq_refused] at h ⊢
  exact h

/-- Settles O34: no response but INIT's carries a new `CFG`, and INIT's is `initCfg`. -/
theorem onlyInitWritesCfg : Obligations.OnlyInitWritesCfg := by
  refine ⟨fun i s t h hi => exec_cfg_of_not_init hi h, fun s n ty o hn => ?_⟩
  refine ⟨_, exec_init_of_ne_zero hn ty o s, ?_, rfl⟩
  rw [newEvents_setCfg_emit]
  exact initEvents_ne_nil s.params n ty o

end Sys2Proof.Machine
end

section
/-! The step and the run: one command off the port, and a program of them in order
(spec/10_state.md R15, R17). -/

namespace Sys2Proof.Machine

theorem step_of_command {s : State} {i : Instr} {rest : List Presented}
    (hw : i.wellFormed = true) (hp : s.port = { cmd := i, overlapped := false } :: rest) :
    step s = exec i { s with port := rest } := by
  simp [step, State.fetch, hp, hw]

/-- Settles O43: the port offers its unmarked head, and the step is `exec` of it. -/
theorem stepRunsThePresentedCommand : Obligations.StepRunsThePresentedCommand :=
  fun _ _ _ => step_of_command

/-- Settles O46: an idle step changes nothing, and a command keeps all three. -/
theorem stepKeepsParamsAndValid : Obligations.StepKeepsParamsAndValid := by
  intro s t h
  obtain ⟨-, rfl⟩ | ⟨p, rest, -, -, -, hexec⟩ := step_eq_next h
  · exact ⟨rfl, id, List.prefix_rfl⟩
  · have hparams := exec_params hexec
    have hvalid := exec_valid hexec
    have hprefix := exec_trace_prefix hexec
    exact ⟨hparams, hvalid, hprefix⟩

theorem State.present_nil (s : State) : s.present [] = s := by
  cases s; simp [State.present]

theorem step_present_cons {s : State} {i : Instr} (hp : s.port = []) (hw : i.wellFormed = true)
    (is : List Instr) : step (s.present (i :: is)) = exec i (s.present is) := by
  rw [step_of_command hw (by rw [State.present_port, hp]; rfl)]
  simp [State.present, hp]

/-- A run ends at the first step that is refused. -/
theorem run_succ_of_step_refused {s : State} {why : Refusal} (h : step s = .refused why) (k : Nat) :
    Host.Core.run Sys2Proof.core (k + 1) s = .refused why := by
  have h' : Sys2Proof.core.step s = .refused why := h
  simp only [Host.Core.run, h']

/-- Settles O45, by induction on the program: a step runs the head and leaves the rest presented to
a port that is otherwise empty. -/
theorem commandsRunInPresentationOrder : Obligations.CommandsRunInPresentationOrder := by
  intro cmds
  induction cmds with
  | nil => intro s _ _; rw [State.present_nil]; rfl
  | cons i is ih =>
    intro s hport hwf
    obtain ⟨hi, his⟩ := List.forall_mem_cons.1 hwf
    have hstep : step (s.present (i :: is)) = exec i (s.present is) :=
      step_present_cons hport hi is
    rw [List.length_cons, runCommands]
    cases hexec : exec i s with
    | next t =>
      rw [exec_present_of_next hexec] at hstep
      rw [run_succ_of_step hstep]
      exact ih t ((exec_port hexec).trans hport) his
    | fault f => exact nomatch f
    | refused why =>
      rw [exec_present_of_refused hexec] at hstep
      exact run_succ_of_step_refused hstep is.length

end Sys2Proof.Machine
end

section
/-! The pieces a command sends (spec/30_encoding.md R49): what a response carries, read as segments
once for all instructions. The frame of a command, its bytes on the bus and the invariant of a run
are facts about these segments. -/

namespace Sys2Proof.Machine

/-- The pieces an executed command sends, by its row of R49. Of `CFG` only `lastIndex` enters. -/
def sentSegments (P : Params) (last : Byte) : Instr → List Segment
  | .init n t o =>
    .single (.init (countByte n) (typeByte P t)) ::
      ((if needsOrderFrame P t o then
          [.single (.rgborder P.orderPayload.p0 P.orderPayload.p1 P.orderPayload.p2)]
        else []) ++ [.wait P.tInitUs])
  | .rgborder p q r => [.single (.rgborder p q r)]
  | .setrgb r g b => [.single (.setrgb r g b)]
  | .setrgbw r g b w => [.single (.setrgbw r g b w)]
  | .sethsv h s v => [.single (.sethsv (hueA P h) (hueB P h) s v)]
  | .setled i => [.single (.setled i)]
  | .clearled i => [.fused (zeroFrame P) (.setled i)]
  | .setall => [.single .setall]
  | .clearall => [.fused (zeroFrame P) .setall]
  | .setrange a e => [.single (.setrange a e)]
  | .setrainbow h s v a e p => [.single (.rainbow (hueA P h) (hueB P h) s v a e p)]
  | .shiftup a e n => [.single (.shift P.opShiftUpWire a e n)]
  | .shiftdown a e n => [.single (.shift P.opShiftDownWire a e n)]
  | .copyled f t => [.single (.copyled f t)]
  | .repeatRange a e n => [.single (.repeatRange a e n)]
  | .showStrip => [.single .showStrip, .wait (showDelay P last)]
  | .gradient a e fc tc =>
    if e.toInt = a.toInt then [.single (.setrgb fc.r fc.g fc.b)]
    else (gradientSteps a.toInt e.toInt last).map fun x =>
      .fused
        (.setrgb (colorAt fc tc x (e.toInt - a.toInt)).r (colorAt fc tc x (e.toInt - a.toInt)).g
          (colorAt fc tc x (e.toInt - a.toInt)).b)
        (.setled (BitVec.ofInt 8 (a.toInt + x)))
  | .resetchip => if P.hasResetLine then [.resetPulse] else []
  | .reservedA8 => []

/-! ### Segments one after another -/

@[simp] theorem segmentsEvents_nil (P : Params) : segmentsEvents P [] = [] := rfl

@[simp] theorem segmentsEvents_cons (P : Params) (g : Segment) (gs : List Segment) :
    segmentsEvents P (g :: gs) = g.events P ++ segmentsEvents P gs := rfl

@[simp] theorem segmentsEvents_append (P : Params) (gs ks : List Segment) :
    segmentsEvents P (gs ++ ks) = segmentsEvents P gs ++ segmentsEvents P ks :=
  List.flatMap_append

theorem Segment.events_ne_nil (P : Params) (g : Segment) : g.events P ≠ [] := by
  cases g <;> simp [Segment.events, transaction]

theorem segmentsEvents_eq_nil {P : Params} {gs : List Segment} :
    segmentsEvents P gs = [] ↔ gs = [] := by
  cases gs <;> simp [Segment.events_ne_nil]

theorem Segment.busBytes_events (P : Params) (g : Segment) :
    busBytes (g.events P) = framesBytes g.frames := by
  cases g <;> simp [Segment.events, Segment.frames, busBytes]

theorem busBytes_segmentsEvents (P : Params) (gs : List Segment) :
    busBytes (segmentsEvents P gs) = framesBytes (gs.flatMap Segment.frames) := by
  induction gs with
  | nil => rfl
  | cons g gs ih => simp [Segment.busBytes_events, ih, framesBytes]

/-- Only the reset pulse drives the reset line (R24, R40). -/
theorem foldl_rstAfter_segmentsEvents {P : Params} {gs : List Segment} (h : .resetPulse ∉ gs)
    (l : Level) : (segmentsEvents P gs).foldl rstAfter l = l := by
  induction gs with
  | nil => rfl
  | cons g gs ih =>
    rw [List.mem_cons, not_or] at h
    obtain ⟨hg, hgs⟩ := h
    have hkeep : (g.events P).foldl rstAfter l = l := by
      cases g with
      | single | fused => exact foldl_rstAfter_transaction P _ l
      | wait => rfl
      | resetPulse => exact absurd rfl hg
    rw [segmentsEvents_cons, List.foldl_append, hkeep, ih hgs]

/-- The reset pulse leaves chip-select alone (R88). -/
theorem foldl_csAfter_resetEvents (P : Params) (l : Level) :
    (resetEvents P).foldl csAfter l = l := by
  unfold resetEvents
  split <;> rfl

/-! ### The offsets a gradient visits -/

/-- The emitted offsets are those within the span whose LED is on the strip (R93). -/
theorem mem_gradientSteps {a e x : Int} {last : Byte} :
    x ∈ gradientSteps a e last ↔ 0 ≤ x ∧ x ≤ e - a ∧ 0 ≤ a + x ∧ a + x ≤ last.toNat := by
  have hbounds : x ∈ gradientSteps a e last ↔
      gradientLo a ≤ x ∧ x ≤ gradientHi a e last := by
    simp only [gradientSteps, List.mem_map, List.mem_range]
    constructor
    · rintro ⟨k, hk, rfl⟩; omega
    · rintro ⟨hlo, hhi⟩; exact ⟨(x - gradientLo a).toNat, by omega, by omega⟩
  rw [hbounds, gradientLo, gradientHi]
  omega

/-- A span shows nothing exactly when it lies wholly off the strip (R93). -/
theorem gradientSteps_eq_nil {a e : Int} {last : Byte} (h : a < e) :
    gradientSteps a e last = [] ↔ e < 0 ∨ (last.toNat : Int) < a := by
  simp only [gradientSteps, gradientLo, gradientHi, List.map_eq_nil_iff, List.range_eq_nil]
  omega

theorem toNat_ofInt_of_mem_gradientSteps {a e x : Int} {last : Byte}
    (h : x ∈ gradientSteps a e last) : (BitVec.ofInt 8 (a + x)).toNat ≤ last.toNat := by
  obtain ⟨-, -, hlo, hhi⟩ := mem_gradientSteps.1 h
  have hlast := last.isLt
  rw [BitVec.toNat_ofInt]
  omega

/-! ### What a response carries -/

theorem range_of_not_dropped {last a e : Byte} (h : (!rangeOk last a e) = false) :
    a.toNat ≤ e.toNat ∧ e.toNat ≤ last.toNat :=
  rangeOk_iff.1 (by simpa using h)

theorem indexOk_eq_not_lt (last i : Byte) :
    indexOk last i = !decide (last.toNat < i.toNat) := by
  simp [indexOk, ← decide_not]

/-- A reading of `CFG.lastIndex` executes exactly when `CFG` is valid and what it reads for does. -/
theorem withLastIndex_eq_executed {c c' : Cfg} {k : Byte → Response} {es : List Event} :
    withLastIndex c k = .executed c' es ↔
      c.valid = true ∧ k c.lastIndex = .executed c' es := by
  cases hv : c.valid <;> simp [withLastIndex, hv]

theorem initEvents_eq_segmentsEvents (P : Params) (last : Byte) (n : Half) (t : LedType)
    (o : ColorOrder) :
    initEvents P n t o = segmentsEvents P (sentSegments P last (.init n t o)) := by
  rw [initEvents, sentSegments]
  split <;> simp [Segment.events, sendFrame, orderTransaction]

/-- A gradient that executes is not reversed, and its trace is its segments' (R90). -/
theorem gradientResponse_eq_executed {P : Params} {c c' : Cfg} {a e : Half} {fc tc : Rgb}
    {es : List Event} (h : gradientResponse P c a.toInt e.toInt fc tc = .executed c' es) :
    ¬ e.toInt < a.toInt ∧
      es = segmentsEvents P (sentSegments P c.lastIndex (.gradient a e fc tc)) := by
  unfold gradientResponse at h
  split at h
  · cases h
  · next hforward =>
    refine ⟨hforward, ?_⟩
    split at h
    · next hpoint => cases h; simp [sentSegments, hpoint, Segment.events, sendFrame]
    · next hspan =>
      obtain ⟨-, hes⟩ := withLastIndex_eq_executed.1 h
      cases hes
      simp only [sentSegments, if_neg hspan, segmentsEvents, List.flatMap_map]
      rfl

/-- An executed command meets none of the drop conditions of R102, and its events are those of its
segments. -/
theorem response_eq_executed {i : Instr} {P : Params} {c c' : Cfg} {es : List Event}
    (h : response i P c = .executed c' es) :
    dropsAt c.lastIndex i = false ∧ es = segmentsEvents P (sentSegments P c.lastIndex i) := by
  cases i with
  | init n t o =>
    simp only [response, initResponse] at h
    split at h
    · cases h
    · cases h; exact ⟨rfl, initEvents_eq_segmentsEvents P _ n t o⟩
  | rgborder | setrgb | setrgbw | sethsv | setall | clearall =>
    cases h
    exact ⟨rfl, by simp [sentSegments, Segment.events, orderTransaction, sendFrame, sendFused]⟩
  | setled | clearled | setrange | setrainbow | shiftup | shiftdown | copyled | repeatRange =>
    simp only [response] at h
    obtain ⟨-, hok, -, rfl⟩ := checked_eq_executed.1 h
    exact ⟨by simpa [dropsAt, indexOk_eq_not_lt] using hok,
      by simp [sentSegments, Segment.events, sendFrame, sendFused]⟩
  | showStrip =>
    rw [response, showStripResponse] at h
    obtain ⟨-, hes⟩ := withLastIndex_eq_executed.1 h
    cases hes
    exact ⟨rfl, by simp [sentSegments, Segment.events, showEvents, sendFrame]⟩
  | gradient a e fc tc =>
    obtain ⟨hforward, hes⟩ := gradientResponse_eq_executed h
    exact ⟨decide_eq_false hforward, hes⟩
  | resetchip =>
    cases h
    refine ⟨rfl, ?_⟩
    rw [resetEvents, sentSegments]
    split <;> rfl
  | reservedA8 => cases h

/-- A dropped command meets its drop condition of R102. -/
theorem response_eq_dropped {i : Instr} {P : Params} {c : Cfg}
    (h : response i P c = .dropped) : dropsAt c.lastIndex i = true := by
  cases i with
  | init n t o =>
    simp only [response, initResponse] at h
    split at h <;> cases h
  | rgborder | setrgb | setrgbw | sethsv | setall | clearall | resetchip | reservedA8 => cases h
  | setled | clearled | setrange | setrainbow | shiftup | shiftdown | copyled | repeatRange =>
    simp only [response] at h
    obtain ⟨-, hfails⟩ := checked_eq_dropped.1 h
    simpa [dropsAt, indexOk_eq_not_lt, imp_iff_not_or] using hfails
  | showStrip =>
    simp only [response, showStripResponse, withLastIndex] at h
    split at h <;> cases h
  | gradient a e fc tc =>
    simp only [response, gradientResponse, withLastIndex] at h
    split at h
    · next hreversed => exact decide_eq_true hreversed
    · split at h
      · cases h
      · split at h <;> cases h

/-- What a command that answers does, in segments: it executes and sends them, or it is dropped. -/
theorem exec_next_cases {i : Instr} {s t : State} (h : exec i s = .next t) :
    (dropsAt s.cfg.lastIndex i = false ∧ i ≠ .reservedA8 ∧ ∃ c,
      t = (s.setCfg c).emit (segmentsEvents s.params (sentSegments s.params s.cfg.lastIndex i))) ∨
    (dropsAt s.cfg.lastIndex i = true ∧ t = s) := by
  obtain ⟨c, es, hr, rfl⟩ | ⟨hr, rfl⟩ := exec_eq_next.1 h
  · obtain ⟨hdrop, rfl⟩ := response_eq_executed hr
    refine .inl ⟨hdrop, ?_, c, rfl⟩
    rintro rfl
    cases hr
  · exact .inr ⟨response_eq_dropped hr, rfl⟩

end Sys2Proof.Machine
end

section
/-! The invariant of a run (spec/20_memory.md R26, R40; spec/30_encoding.md R49): every piece a
command sends is legal. -/

namespace Sys2Proof.Machine

theorem countByte_even (n : Half) : (countByte n).toNat % 2 = 0 := by
  simp only [countByte, trunc8, roundEven, BitVec.toNat_ofNat]
  omega

theorem legalHue_hueAB (P : Params) (h : Half) : legalHue P (hueA P h) (hueB P h) = true := by
  simp [legalHue, hueOfBytes_hueAB, clampHue]

theorem legalFrame_init (P : Params) (n : Half) (t : LedType) :
    legalFrame P (.init (countByte n) (typeByte P t)) = true := by
  cases t <;> simp [legalFrame, countByte_even, typeByte]

theorem legalFrame_orderPayload (P : Params) :
    legalFrame P (.rgborder P.orderPayload.p0 P.orderPayload.p1 P.orderPayload.p2) = true := by
  simp [legalFrame]

theorem fuses_zeroFrame_setled (P : Params) (i : Byte) :
    fuses P (zeroFrame P) (.setled i) = true := by
  simp [fuses, Frame.kind]

theorem fuses_zeroFrame_setall (P : Params) : fuses P (zeroFrame P) .setall = true := by
  simp [fuses, Frame.kind]

theorem fuses_setrgb_setled (P : Params) (r g b i : Byte) :
    fuses P (.setrgb r g b) (.setled i) = true := by
  simp [fuses, Frame.kind]

/-- The strip has 1 to 256 LEDs (R38, R87). -/
theorem Segment.legal_wait_showDelay (P : Params) (last : Byte) :
    (Segment.wait (showDelay P last)).Legal P :=
  .inr ⟨last.toNat + 1, by omega, by omega, rfl⟩

/-- "Exactly these, and no others, are ever emitted" (R49): what a command sends once its check has
passed is legal. The RGBORDER row alone is excepted, since its operands may be no payload of `P`. -/
theorem legal_of_mem_sentSegments {P : Params} {last : Byte} {i : Instr}
    (horder : i.isOrderFrame = false) (hdrop : dropsAt last i = false) :
    ∀ g ∈ sentSegments P last i, g.Legal P := by
  cases i with
  | init n t o =>
    rw [sentSegments]
    split <;> simp [Segment.Legal, legalFrame_init, legalFrame_orderPayload]
  | rgborder => cases horder
  | setrgb | setrgbw | setled | setall | copyled =>
    simp [sentSegments, Segment.Legal, legalFrame]
  | sethsv => simp [sentSegments, Segment.Legal, legalFrame, legalHue_hueAB]
  | clearled => simp [sentSegments, Segment.Legal, fuses_zeroFrame_setled]
  | clearall => simp [sentSegments, Segment.Legal, fuses_zeroFrame_setall]
  | setrange | setrainbow | shiftup | shiftdown | repeatRange =>
    obtain ⟨hle, -⟩ := range_of_not_dropped hdrop
    simp [sentSegments, Segment.Legal, legalFrame, legalHue_hueAB, hle]
  | showStrip =>
    have hwait := Segment.legal_wait_showDelay P last
    simpa [sentSegments, Segment.Legal, legalFrame] using hwait
  | gradient a e fc tc =>
    rw [sentSegments]
    split <;> simp [Segment.Legal, legalFrame, fuses_setrgb_setled]
  | resetchip =>
    rw [sentSegments]
    split
    · next hline => simpa [Segment.Legal] using hline
    · simp
  | reservedA8 => simp [sentSegments]

/-- Segments appended to a state between commands leave it between commands if they are legal. -/
theorem State.Inv.emit_segmentsEvents {s : State} (hs : s.Inv) {gs : List Segment}
    (hlegal : ∀ g ∈ gs, g.Legal s.params) (c : Cfg) :
    ((s.setCfg c).emit (segmentsEvents s.params gs)).Inv := by
  obtain ⟨htrace, hcs, hrst⟩ := hs
  obtain ⟨hcs', hrst'⟩ := segments_leave_lines_idle s.params gs
  exact ⟨htrace.append ⟨gs, hlegal, rfl⟩, by simpa [hcs] using hcs', by simpa [hrst] using hrst'⟩

theorem exec_keeps_inv {i : Instr} {s t : State} (horder : i.isOrderFrame = false) (hs : s.Inv)
    (h : exec i s = .next t) : t.Inv := by
  obtain ⟨hdrop, -, c, rfl⟩ | ⟨-, rfl⟩ := exec_next_cases h
  · exact hs.emit_segmentsEvents (legal_of_mem_sentSegments horder hdrop) c
  · exact hs

theorem isOrderFrame_of_wellFormed {i : Instr} (h : i.wellFormed = true) :
    i.isOrderFrame = false := by
  rw [Instr.wellFormed, Bool.and_eq_true, Bool.not_eq_true'] at h
  exact h.1

/-- Settles O49: an idle step changes nothing, and a command let through the port appends legal
segments. -/
theorem stepKeepsInvariant : Obligations.StepKeepsInvariant := by
  intro s t hs h
  obtain ⟨-, rfl⟩ | ⟨p, rest, -, -, hwf, hexec⟩ := step_eq_next h
  · exact hs
  · have htaken : State.Inv { s with port := rest } := ⟨hs.trace_legal, hs.cs_high, hs.rst_high⟩
    exact exec_keeps_inv (isOrderFrame_of_wellFormed hwf) htaken hexec

theorem State.resetWith_inv (P : Params) : (State.resetWith P).Inv :=
  ⟨LegalTrace.nil P, rfl, rfl⟩

/-- Settles O48: the trace is empty and both lines start high, with the open record as with any. -/
theorem invariantAtReset : Obligations.InvariantAtReset :=
  ⟨State.resetWith_inv Config.params, State.resetWith_inv⟩

end Sys2Proof.Machine
end

section
/-! What a command touches, what decides its outcome, and when it is silent (spec/20_memory.md R25,
R33; spec/60_exceptions.md R102). -/

namespace Sys2Proof.Machine

theorem resetPulse_not_mem_sentSegments {P : Params} {last : Byte} {i : Instr}
    (hi : i ≠ .resetchip) : .resetPulse ∉ sentSegments P last i := by
  cases i with
  | resetchip => exact absurd rfl hi
  | init | gradient => rw [sentSegments]; split <;> simp
  | _ => simp [sentSegments]

theorem exec_rst_of_ne_resetchip {i : Instr} {s t : State} (hi : i ≠ .resetchip)
    (h : exec i s = .next t) : t.rst = s.rst := by
  obtain ⟨-, -, c, rfl⟩ | ⟨-, rfl⟩ := exec_next_cases h
  · simpa using foldl_rstAfter_segmentsEvents (resetPulse_not_mem_sentSegments hi) s.rst
  · rfl

theorem exec_resetchip_cs {s t : State} (h : exec .resetchip s = .next t) : t.cs = s.cs := by
  cases h
  exact foldl_csAfter_resetEvents s.params s.cs

/-- Settles O35: a response is emitted and written to `CFG`, and only RESETCHIP's segments hold a
reset pulse. -/
theorem commandFrame : Obligations.CommandFrame := by
  intro i s t h
  refine ⟨exec_params h, exec_port h, exec_trace_prefix h,
    fun hi => exec_rst_of_ne_resetchip hi h, ?_⟩
  rintro rfl
  exact exec_resetchip_cs h

/-- Settles O36: both states have the one response, whose `CFG` and events a next state carries and
whose reason a refusal names. -/
theorem outcomeDependsOnPCfgAndCommand : Obligations.OutcomeDependsOnPCfgAndCommand := by
  intro i s₁ s₂ hP hC
  have hresponse : response i s₂.params s₂.cfg = response i s₁.params s₁.cfg := by rw [hP, hC]
  constructor
  · intro t₁ h
    obtain ⟨c, es, hr, rfl⟩ | ⟨hr, rfl⟩ := exec_eq_next.1 h
    · exact ⟨_, exec_eq_next.2 (.inl ⟨c, es, hresponse.trans hr, rfl⟩), by simp, by simp⟩
    · exact ⟨s₂, exec_eq_next.2 (.inr ⟨hresponse.trans hr, rfl⟩), hC.symm, by simp⟩
  · intro why h
    rw [exec_eq_answer, State.answer_eq_refused] at h ⊢
    exact hresponse.trans h

/-- A command that passes its check sends no piece in two cases only: RESETCHIP without a line, and
a gradient off the strip. -/
theorem sentSegments_eq_nil {P : Params} {last : Byte} {i : Instr}
    (hdrop : dropsAt last i = false) (hres : i ≠ .reservedA8) :
    sentSegments P last i = [] ↔
      (i = .resetchip ∧ P.hasResetLine = false) ∨
      (∃ a e fc tc, i = .gradient a e fc tc ∧ a.toInt < e.toInt ∧
        (e.toInt < 0 ∨ (last.toNat : Int) < a.toInt)) := by
  cases i with
  | resetchip => simp [sentSegments]
  | gradient a e fc tc =>
    have hforward : ¬ e.toInt < a.toInt := of_decide_eq_false hdrop
    by_cases hpoint : e.toInt = a.toInt
    · simp [sentSegments, hpoint]
    · have hspan : a.toInt < e.toInt := by omega
      simp [sentSegments, hpoint, hspan, gradientSteps_eq_nil]
  | reservedA8 => exact absurd rfl hres
  | _ => simp [sentSegments]

/-- Settles O40: a dropped command meets its drop condition and emits nothing; an executed one does
not meet it, and is silent when it has no piece to send. -/
theorem silentExactlyWhenDroppedOrEmpty : Obligations.SilentExactlyWhenDroppedOrEmpty := by
  intro i s t h
  obtain ⟨hdrop, hres, c, rfl⟩ | ⟨hdrop, rfl⟩ := exec_next_cases h
  · rw [newEvents_setCfg_emit, segmentsEvents_eq_nil, sentSegments_eq_nil hdrop hres]
    simp [hdrop]
  · simp [hdrop]

end Sys2Proof.Machine
end

section
/-! The bus as frames (spec/30_encoding.md R49), and the index bytes in them (spec/20_memory.md
R34). -/

namespace Sys2Proof

theorem length_le_length_framesBytes (fs : List Frame) : fs.length ≤ (framesBytes fs).length := by
  induction fs with
  | nil => exact Nat.le_refl 0
  | cons f fs ih =>
    have hf := f.length_bytes_pos
    simp only [framesBytes_cons, List.length_cons, List.length_append]
    omega

theorem decodeFramesFuel_framesBytes {fs : List Frame} {fuel : Nat} (h : fs.length ≤ fuel) :
    decodeFramesFuel fuel (framesBytes fs) = .ok fs := by
  induction fs generalizing fuel with
  | nil => exact decodeFramesFuel_nil fuel
  | cons f fs ih =>
    obtain ⟨n, rfl⟩ : ∃ n, fuel = n + 1 := Nat.exists_eq_add_one.2 (Nat.zero_lt_of_lt h)
    rw [framesBytes_cons, decodeFramesFuel_cons, ih (Nat.le_of_succ_le_succ h)]
    rfl

/-- Frames written out one after another and read give themselves (R49). -/
theorem decodeFrames_framesBytes (fs : List Frame) : decodeFrames (framesBytes fs) = .ok fs :=
  decodeFramesFuel_framesBytes (length_le_length_framesBytes fs)

end Sys2Proof

namespace Sys2Proof.Machine

theorem indexBytes_setled (i : Byte) : indexBytes (.setled i) = [i] := rfl

theorem indexBytes_setall : indexBytes .setall = [] := rfl

theorem indexBytes_zeroFrame (P : Params) : indexBytes (zeroFrame P) = [] := by
  unfold zeroFrame
  split <;> rfl

/-- What a command sends once its check has passed names LEDs of the strip only (R78, R85, R96). -/
theorem index_on_strip_of_mem_sentSegments {P : Params} {last : Byte} {i : Instr}
    (hdrop : dropsAt last i = false) :
    ∀ g ∈ sentSegments P last i, ∀ f ∈ g.frames, ∀ b ∈ indexBytes f, b.toNat ≤ last.toNat := by
  cases i with
  | init => rw [sentSegments]; split <;> simp [Segment.frames, indexBytes]
  | rgborder | setrgb | setrgbw | sethsv | setall | showStrip | reservedA8 =>
    simp [sentSegments, Segment.frames, indexBytes]
  | clearall => simp [sentSegments, Segment.frames, indexBytes_zeroFrame, indexBytes_setall]
  | setled => simpa [sentSegments, Segment.frames, indexBytes_setled, dropsAt] using hdrop
  | clearled =>
    simpa [sentSegments, Segment.frames, indexBytes_zeroFrame, indexBytes_setled, dropsAt]
      using hdrop
  | copyled => simpa [sentSegments, Segment.frames, indexBytes, dropsAt] using hdrop
  | setrange | setrainbow | shiftup | shiftdown | repeatRange =>
    obtain ⟨hle, hlast⟩ := range_of_not_dropped hdrop
    simp [sentSegments, Segment.frames, indexBytes, hlast, hle.trans hlast]
  | gradient a e fc tc =>
    rw [sentSegments]
    split
    · simp [Segment.frames, indexBytes]
    · simpa [Segment.frames, indexBytes] using
        fun x (hx : x ∈ gradientSteps a.toInt e.toInt last) => toNat_ofInt_of_mem_gradientSteps hx
  | resetchip => rw [sentSegments]; split <;> simp [Segment.frames]

/-- Settles O41: the bus bytes of an executed command are its segments' frames written out, and a
dropped one sends none. -/
theorem busBytesAreFramesOnTheStrip : Obligations.BusBytesAreFramesOnTheStrip := by
  intro i s t h
  obtain ⟨hdrop, -, c, rfl⟩ | ⟨-, rfl⟩ := exec_next_cases h
  · refine ⟨(sentSegments s.params s.cfg.lastIndex i).flatMap Segment.frames, ?_, ?_⟩
    · rw [newEvents_setCfg_emit, busBytes_segmentsEvents, decodeFrames_framesBytes]
    · intro f hf
      obtain ⟨g, hg, hfg⟩ := List.mem_flatMap.1 hf
      exact index_on_strip_of_mem_sentSegments hdrop g hg f hfg
  · exact ⟨[], by rw [newEvents_self]; rfl, by simp⟩

end Sys2Proof.Machine
end

section
/-! Frames as bytes and bits (spec/30_encoding.md R42, R43, R49): the opcode fixes a frame's length,
and a byte stream reads into frames in one way. -/

namespace Sys2Proof

theorem FrameKind.opcode_injective : Function.Injective FrameKind.opcode := fun k l h => by
  simpa using congrArg FrameKind.ofByte h

theorem Frame.opcode_ne_reserved (f : Frame) : f.kind.opcode ≠ FrameKind.reservedA8.opcode :=
  fun h => f.kind_ne_reserved (FrameKind.opcode_injective h)

@[simp] theorem Frame.head?_bytes (f : Frame) : f.bytes.head? = some f.kind.opcode := rfl

theorem Frame.length_bytes (f : Frame) : f.bytes.length = f.kind.operandCount + 1 := by
  rw [Frame.bytes, List.length_cons, f.length_operands]

theorem FrameKind.operandCount_cases (k : FrameKind) : k.operandCount ≤ 4 ∨ k.operandCount = 7 := by
  cases k <;> decide

/-- The first byte of a frame says how long it is (R43). -/
theorem Frame.length_bytes_of_head? {f g : Frame} (h : f.bytes.head? = g.bytes.head?) :
    f.bytes.length = g.bytes.length := by
  have hkind : f.kind = g.kind := FrameKind.opcode_injective (Option.some.inj h)
  rw [f.length_bytes, g.length_bytes, hkind]

/-- Whatever frames are read from a stream write out as the bytes they came from (R49). -/
theorem framesBytes_of_decodeFramesFuel {fuel : Nat} {bs : List Byte} {fs : List Frame}
    (h : decodeFramesFuel fuel bs = .ok fs) : framesBytes fs = bs := by
  induction fuel generalizing bs fs with
  | zero =>
    cases bs <;> cases h
    rfl
  | succ fuel ih =>
    cases bs with
    | nil => cases h; rfl
    | cons b bs =>
      simp only [decodeFramesFuel] at h
      split at h
      · cases h
      · next f rest hf =>
        split at h
        · cases h
        · next fs' hfs =>
          cases h
          rw [framesBytes_cons, ih hfs, bytes_of_decodeFrame hf]

/-- Settles O51: what is written reads back frame by frame, and each frame read writes out as the
bytes it was taken from. -/
theorem frameStreamReadsUniquely : Obligations.FrameStreamReadsUniquely :=
  ⟨decodeFrames_framesBytes, fun _ _ h => framesBytes_of_decodeFramesFuel h⟩

end Sys2Proof

namespace Sys2Proof.Machine

theorem length_bitsMsbFirst (b : Byte) : (bitsMsbFirst b).length = 8 := by simp [bitsMsbFirst]

theorem length_frameBits (f : Frame) : (frameBits f).length = 8 * f.bytes.length := by
  simp [frameBits, List.length_flatMap, length_bitsMsbFirst, Nat.mul_comm]

theorem take_frameBits (f : Frame) : (frameBits f).take 8 = bitsMsbFirst f.kind.opcode :=
  List.take_left' (length_bitsMsbFirst f.kind.opcode)

/-- Settles O50: the kind fixes opcode and operand count, and a byte is eight bits. -/
theorem frameIsOpcodeAndFixedOperands : Obligations.FrameIsOpcodeAndFixedOperands := by
  refine ⟨fun f g h => Frame.length_bytes_of_head? h, fun f => ?_⟩
  have hlen := f.length_bytes
  have hcount := f.kind.operandCount_cases
  refine ⟨f.head?_bytes, ?_, hlen, by omega, ?_, take_frameBits f⟩
  · exact fun h => f.opcode_ne_reserved (Option.some.inj h)
  · rw [length_frameBits, hlen]

end Sys2Proof.Machine
end

section
/-! The bytes a command sends, as the encoder writes them (spec/30_encoding.md R44, R46, R49). -/

namespace Sys2Proof

theorem framesBytes_singleton (f : Frame) : framesBytes [f] = f.bytes := by simp

theorem framesBytes_pair (f g : Frame) : framesBytes [f, g] = f.bytes ++ g.bytes := by simp

theorem encode_of_ne_reserved {i : Instr} (h : i ≠ .reservedA8) (P : Params) :
    encode P i = framesBytes (i.frames P) := by
  cases i with
  | reservedA8 => exact absurd rfl h
  | _ => rfl

theorem encode_of_frames_cons {P : Params} {i : Instr} {f : Frame} {fs : List Frame}
    (h : i.frames P = f :: fs) : encode P i = framesBytes (f :: fs) := by
  have hres : i ≠ .reservedA8 := by rintro rfl; cases h
  rw [encode_of_ne_reserved hres, h]

end Sys2Proof

namespace Sys2Proof.Machine

/-- Settles O9: the row's frame is `[0xC1, p0, p1, p2]`, in a transaction of its own. -/
theorem rgborderRowIsOneTransaction : Obligations.RgborderRowIsOneTransaction := fun s p0 p1 p2 =>
  exec_eq_answer (.rgborder p0 p1 p2) s

/-- Settles O25: the response of the reserved row is the refusal, whatever `P` and `CFG` are. -/
theorem reservedOpcodeRefused : Obligations.ReservedOpcodeRefused := fun s =>
  exec_eq_answer .reservedA8 s

theorem countByte_toNat (n : Half) :
    (countByte n).toNat = (min n.toNat 256 + min n.toNat 256 % 2) % 256 := by
  simp [countByte, trunc8, roundEven, clampCount, maxLeds]

theorem byte_eq_zero_iff {b : Byte} : b = 0 ↔ b.toNat = 0 := BitVec.toNat_inj.symm

theorem countByte_eq_zero_iff {n : Half} (hn : n ≠ 0) :
    countByte n = 0 ↔ min n.toNat 256 = 255 ∨ min n.toNat 256 = 256 := by
  have hpos : n.toNat ≠ 0 := fun h => hn (BitVec.eq_of_toNat_eq h)
  rw [byte_eq_zero_iff, countByte_toNat]
  omega

theorem countByte_of_ne_zero {n : Half} (h : countByte n ≠ 0) :
    (countByte n).toNat = min n.toNat 256 ∨ (countByte n).toNat = min n.toNat 256 + 1 := by
  have hpos := mt byte_eq_zero_iff.2 h
  rw [countByte_toNat] at hpos ⊢
  omega

/-- The bytes of INIT: its frame, then the order frame where one is needed (R59, R61). -/
theorem busBytes_initEvents (P : Params) (n : Half) (ty : LedType) (o : ColorOrder) :
    busBytes (initEvents P n ty o) = Frame.bytes (.init (countByte n) (typeByte P ty)) ++
      if needsOrderFrame P ty o then
        Frame.bytes (.rgborder P.orderPayload.p0 P.orderPayload.p1 P.orderPayload.p2)
      else [] := by
  rw [initEvents]
  split <;> simp [orderTransaction, busBytes]

/-- Settles O4: the second byte on the bus is the count byte of INIT's frame. -/
theorem initCountByteIsEvenRounded : Obligations.InitCountByteIsEvenRounded := by
  intro s n ty o hn
  refine ⟨_, countByte n, exec_init_of_ne_zero hn ty o s, ?_, countByte_toNat n, countByte_even n,
    countByte_eq_zero_iff hn, countByte_of_ne_zero⟩
  rw [newEvents_setCfg_emit, busBytes_initEvents]
  rfl

/-! ### The first transaction of a command -/

theorem firstTransaction_single_cons (P : Params) (f : Frame) (gs : List Segment) :
    firstTransaction (segmentsEvents P (.single f :: gs)) = f.bytes :=
  firstTransaction_transaction_append P _ _

theorem firstTransaction_fused_cons (P : Params) (f g : Frame) (gs : List Segment) :
    firstTransaction (segmentsEvents P (.fused f g :: gs)) = f.bytes ++ g.bytes :=
  firstTransaction_transaction_append P _ _

/-- The first transaction of a command holds the frames of its row: one frame, two fused, or none
for RESETCHIP. -/
theorem firstTransaction_sentSegments {P : Params} {last : Byte} {i : Instr}
    (hres : i ≠ .reservedA8) (hpoint : ∀ a e fc tc, i = .gradient a e fc tc → a = e) :
    firstTransaction (segmentsEvents P (sentSegments P last i)) = encode P i := by
  rw [encode_of_ne_reserved hres]
  cases i with
  | init | rgborder | setrgb | setrgbw | sethsv | setled | setall | setrange | setrainbow | shiftup
  | shiftdown | copyled | repeatRange | showStrip =>
    rw [sentSegments, firstTransaction_single_cons, Instr.frames, framesBytes_singleton]
  | clearled | clearall =>
    rw [sentSegments, firstTransaction_fused_cons, Instr.frames, framesBytes_pair]
  | gradient a e fc tc =>
    cases hpoint a e fc tc rfl
    rw [sentSegments, if_pos rfl, firstTransaction_single_cons, Instr.frames, if_pos rfl,
      framesBytes_singleton]
  | resetchip =>
    rw [sentSegments]
    split <;> rfl
  | reservedA8 => exact absurd rfl hres

theorem needsOrderFrame_iff {P : Params} {ty : LedType} {o : ColorOrder} :
    needsOrderFrame P ty o = true ↔ ty = .rgb ∧ o ≠ P.defaultOrder := by
  simp [needsOrderFrame]

/-- Settles O55: a command's first segment holds the frames of its row, and INIT's further bytes
are those of the order frame. -/
theorem encodeIsFirstTransaction : Obligations.EncodeIsFirstTransaction := by
  constructor
  · intro i s t h hsent hpoint
    obtain ⟨-, hres, c, rfl⟩ | ⟨-, rfl⟩ := exec_next_cases h
    · rw [newEvents_setCfg_emit, firstTransaction_sentSegments hres hpoint]
    · exact absurd (newEvents_self t) hsent
  · intro n ty o s t h
    by_cases hn : n = 0
    · rw [hn, exec_init_zero] at h; cases h
    · rw [exec_init_of_ne_zero hn] at h
      cases h
      simp only [newEvents_setCfg_emit, busBytes_initEvents, needsOrderFrame_iff]
      rfl

end Sys2Proof.Machine
end

section
/-! Decoder and encoder undo each other (spec/30_encoding.md R44 to R51): first the operand bytes,
then the frames of a transaction, then the byte stream. -/

namespace Sys2Proof.Machine

/-! ### Operand bytes -/

theorem clampHue_of_le {h : Nat} (hle : h ≤ hueMax) : clampHue h = h := Nat.min_eq_left hle

/-- A hue of at most 359 is read back from its bytes (R45). -/
theorem hueOfBytes_hueAB_of_le {h : Half} (hle : h.toNat ≤ hueMax) (P : Params) :
    hueOfBytes P (hueA P h) (hueB P h) = h :=
  BitVec.eq_of_toNat_eq (by rw [hueOfBytes_hueAB, clampHue_of_le hle])

/-- Bytes that stand for a hue of at most 359 are the bytes that hue is sent as (R45). -/
theorem hueAB_hueOfBytes {P : Params} {hA hB : Byte} (hle : (hueOfBytes P hA hB).toNat ≤ hueMax) :
    hueA P (hueOfBytes P hA hB) = hA ∧ hueB P (hueOfBytes P hA hB) = hB := by
  simp only [hueA, hueB, hueLow, hueHigh, clampHue_of_le hle, trunc8, ← BitVec.toNat_inj]
  cases hf : P.hueLowFirst <;> simp [hueOfBytes, hf] <;> omega

/-- The counts told whole are the even ones from 2 to 256 (R46). -/
theorem ledCountOfByte_countByte {n : Half}
    (hn : 2 ≤ n.toNat ∧ n.toNat ≤ 256 ∧ n.toNat % 2 = 0) : ledCountOfByte (countByte n) = n := by
  obtain ⟨hlo, hhi, heven⟩ := hn
  have hbyte : (countByte n).toNat = n.toNat % 256 := by rw [countByte_toNat]; omega
  rw [ledCountOfByte, ← BitVec.toNat_inj]
  split
  · next hzero =>
    rw [byte_eq_zero_iff, hbyte] at hzero
    have h256 : n.toNat = 256 := by omega
    rw [h256]; rfl
  · next hne =>
    rw [byte_eq_zero_iff, hbyte] at hne
    rw [BitVec.toNat_setWidth, hbyte]
    omega

theorem countByte_ledCountOfByte {c : Byte} (heven : c.toNat % 2 = 0) :
    countByte (ledCountOfByte c) = c := by
  rw [← BitVec.toNat_inj, countByte_toNat, ledCountOfByte]
  split
  · next hzero => rw [hzero]; rfl
  · next hne =>
    rw [BitVec.toNat_setWidth]
    omega

theorem ledTypeOfByte_typeByte (P : Params) (ty : LedType) :
    ledTypeOfByte P (typeByte P ty) = some ty := by
  cases ty <;> simp [ledTypeOfByte, typeByte, P.typeBytesDiffer.symm]

theorem typeByte_of_ledTypeOfByte {P : Params} {b : Byte} {ty : LedType}
    (h : ledTypeOfByte P b = some ty) : typeByte P ty = b := by
  unfold ledTypeOfByte at h
  split at h
  · next hb => cases h; exact hb.symm
  · split at h
    · next hb => cases h; exact hb.symm
    · cases h

end Sys2Proof.Machine

namespace Sys2Proof

open Machine

/-! ### The frames of a transaction -/

theorem Frame.eq_setled_of_kind {f : Frame} (h : f.kind = .setled) : ∃ i, f = .setled i := by
  cases f with
  | setled i => exact ⟨i, rfl⟩
  | shift w => cases w <;> cases h
  | _ => cases h

theorem Frame.eq_setall_of_kind {f : Frame} (h : f.kind = .setall) : f = .setall := by
  cases f with
  | setall => rfl
  | shift w => cases w <;> cases h
  | _ => cases h

/-- A frame read as an instruction is the one frame of that instruction's row. -/
theorem frames_of_instrOfFrame {P : Params} {f : Frame} {i : Instr}
    (h : instrOfFrame P f = .ok i) : i.frames P = [f] := by
  cases f with
  | setrgb | setrgbw | setled | setall | setrange | showStrip | copyled | repeatRange | rgborder =>
    cases h; rfl
  | sethsv | rainbow =>
    simp only [instrOfFrame] at h
    split at h
    · next hle =>
      cases h
      obtain ⟨hA, hB⟩ := hueAB_hueOfBytes hle
      rw [Instr.frames, hA, hB]
    · cases h
  | init c b =>
    simp only [instrOfFrame] at h
    split at h
    · cases h
    · next heven =>
      split at h
      · next ty hty =>
        cases h
        rw [Instr.frames, countByte_ledCountOfByte (by omega), typeByte_of_ledTypeOfByte hty]
      · cases h
  | shift w s e c =>
    simp only [instrOfFrame] at h
    split at h
    · next hdown => cases h; rw [Instr.frames, hdown]
    · split at h
      · next hup => cases h; rw [Instr.frames, hup]
      · cases h

/-- Two fused frames read as an instruction are the two frames of that instruction's row. -/
theorem frames_of_instrOfFused {P : Params} {f g : Frame} {i : Instr} (hfuse : fuses P f g = true)
    (h : instrOfFused P f g = .ok i) : i.frames P = [f, g] := by
  unfold instrOfFused at h
  split at h
  · next hzero =>
    have hg : g.kind = .setled ∨ g.kind = .setall := by
      simp only [fuses, Bool.or_eq_true, Bool.and_eq_true, decide_eq_true_eq] at hfuse
      tauto
    obtain hled | hall := hg
    · obtain ⟨k, rfl⟩ := Frame.eq_setled_of_kind hled
      cases h; rw [hzero]; rfl
    · cases Frame.eq_setall_of_kind hall
      cases h; rw [hzero]; rfl
  · cases h

theorem map_pair_eq_ok {r : Except DecodeError Instr} {bs rest : List Byte} {i : Instr} :
    (r.map fun j => (j, bs)) = .ok (i, rest) ↔ r = .ok i ∧ bs = rest := by
  cases r <;> simp [Except.map]

/-- What decoding a transaction can be: the row of 0xA8, one frame, or two fused ones. -/
theorem decode_eq_ok {P : Params} {bs rest : List Byte} {i : Instr}
    (h : decode P bs = .ok (i, rest)) :
    (i = .reservedA8 ∧ bs = FrameKind.reservedA8.opcode :: rest) ∨
    (∃ f, instrOfFrame P f = .ok i ∧ bs = f.bytes ++ rest) ∨
    (∃ f g, fuses P f g = true ∧ instrOfFused P f g = .ok i ∧ bs = f.bytes ++ g.bytes ++ rest) := by
  unfold decode at h
  split at h
  · next hhead =>
    cases h
    exact .inl ⟨rfl, List.eq_cons_of_mem_head? hhead⟩
  · split at h
    · cases h
    · next f tail hf =>
      rw [← bytes_of_decodeFrame hf]
      split at h
      · next g tail' hg =>
        split at h
        · next hfuse =>
          obtain ⟨hfg, rfl⟩ := map_pair_eq_ok.1 h
          exact .inr (.inr ⟨f, g, hfuse, hfg, by rw [← bytes_of_decodeFrame hg, List.append_assoc]⟩)
        · obtain ⟨hi, rfl⟩ := map_pair_eq_ok.1 h
          exact .inr (.inl ⟨f, hi, rfl⟩)
      · obtain ⟨hi, rfl⟩ := map_pair_eq_ok.1 h
        exact .inr (.inl ⟨f, hi, rfl⟩)

/-- An instruction told whole is the row of 0xA8, or its row's one or two frames read as it
(R51). -/
theorem wireExact_cases {P : Params} {i : Instr} (h : i.wireExact P = true) :
    i = .reservedA8 ∨
    (∃ f, i.frames P = [f] ∧ instrOfFrame P f = .ok i) ∨
    (∃ f g, i.frames P = [f, g] ∧ fuses P f g = true ∧ instrOfFused P f g = .ok i) := by
  cases i with
  | gradient | resetchip => cases h
  | reservedA8 => exact .inl rfl
  | rgborder | setrgb | setrgbw | setled | setall | setrange | copyled | repeatRange | showStrip =>
    exact .inr (.inl ⟨_, rfl, rfl⟩)
  | clearled k => exact .inr (.inr ⟨_, _, rfl, fuses_zeroFrame_setled P k, if_pos rfl⟩)
  | clearall => exact .inr (.inr ⟨_, _, rfl, fuses_zeroFrame_setall P, if_pos rfl⟩)
  | shiftdown => exact .inr (.inl ⟨_, rfl, if_pos rfl⟩)
  | shiftup =>
    refine .inr (.inl ⟨_, rfl, ?_⟩)
    rw [instrOfFrame, if_neg (of_decide_eq_true h), if_pos rfl]
  | sethsv | setrainbow =>
    refine .inr (.inl ⟨_, rfl, ?_⟩)
    have hle := of_decide_eq_true h
    simp only [instrOfFrame, hueOfBytes_hueAB_of_le hle, hle, if_true]
  | init n ty o =>
    refine .inr (.inl ⟨_, rfl, ?_⟩)
    simp only [Instr.wireExact, Bool.and_eq_true, decide_eq_true_eq] at h
    obtain ⟨hn, rfl⟩ := h
    simp [instrOfFrame, countByte_even, ledTypeOfByte_typeByte, ledCountOfByte_countByte hn]

/-! ### The byte stream -/

theorem head?_bytes_append_ne_reserved (f : Frame) (bs : List Byte) :
    (f.bytes ++ bs).head? ≠ some FrameKind.reservedA8.opcode :=
  fun h => f.opcode_ne_reserved (Option.some.inj h)

/-- A transaction of one frame reads as that frame's instruction. -/
theorem decode_bytes (P : Params) (f : Frame) :
    decode P f.bytes = (instrOfFrame P f).map (·, []) := by
  have hhead := head?_bytes_append_ne_reserved f []
  have hread := decodeFrame_bytes f []
  rw [List.append_nil] at hhead hread
  rw [decode, if_neg hhead, hread]
  rfl

/-- A fused transaction reads as the instruction of its two frames. -/
theorem decode_bytes_append_bytes {P : Params} {f g : Frame} (h : fuses P f g = true) :
    decode P (f.bytes ++ g.bytes) = (instrOfFused P f g).map (·, []) := by
  have hread := decodeFrame_bytes g []
  rw [List.append_nil] at hread
  rw [decode, if_neg (head?_bytes_append_ne_reserved f _), decodeFrame_bytes]
  simp only [hread, h, if_true]

/-- Settles O52: an instruction told whole is written as one or two frames that read as it, or as
the one byte of the 0xA8 row. -/
theorem decodeEncodeAgree : Obligations.DecodeEncodeAgree := by
  intro P i h
  obtain rfl | ⟨f, hframes, hf⟩ | ⟨f, g, hframes, hfuse, hfg⟩ := wireExact_cases h
  · rfl
  · rw [encode_of_frames_cons hframes, framesBytes_singleton, decode_bytes, hf]
    rfl
  · rw [encode_of_frames_cons hframes, framesBytes_pair, decode_bytes_append_bytes hfuse, hfg]
    rfl

/-- Settles O53: the decoder takes off the stream the bytes of the frames it reads, and those are
the frames of the instruction's row. -/
theorem decodedInstructionReencodes : Obligations.DecodedInstructionReencodes := by
  intro P bs rest i h
  obtain ⟨rfl, rfl⟩ | ⟨f, hf, rfl⟩ | ⟨f, g, hfuse, hfg, rfl⟩ := decode_eq_ok h
  · rfl
  · rw [encode_of_frames_cons (frames_of_instrOfFrame hf), framesBytes_singleton]
  · rw [encode_of_frames_cons (frames_of_instrOfFused hfuse hfg), framesBytes_pair]

/-- Settles O54: the table's words are six closed streams of bytes, read out by the decoder. -/
theorem tableWordsDecode : Obligations.TableWordsDecode := by
  unfold Obligations.TableWordsDecode
  decide

end Sys2Proof
end

section
/-! What INIT leaves behind (spec/40_initialize.md R59 to R64): the `CFG` it writes, the
transactions it sends and the wait it ends with. -/

namespace Sys2Proof.Machine

/-- The strip after INIT is as long as the clamped count: a count of at least 1 keeps the
subtraction from cutting off, and the clamp keeps the byte from wrapping (R59, R64 a). -/
theorem initCfg_lastIndex_toNat_succ {n : Half} (hn : n ≠ 0) (ty : LedType) (o : ColorOrder) :
    (initCfg n ty o).lastIndex.toNat + 1 = min n.toNat 256 := by
  have hpos : n.toNat ≠ 0 := fun h => hn (BitVec.eq_of_toNat_eq h)
  simp only [initCfg, lastIndexOf, trunc8, clampCount, maxLeds, BitVec.toNat_ofNat]
  omega

theorem needsOrderFrame_eq_false_iff {P : Params} {ty : LedType} {o : ColorOrder} :
    needsOrderFrame P ty o = false ↔ ty = .rgbw ∨ o = P.defaultOrder := by
  cases ty <;> simp [needsOrderFrame]

/-- INIT's frame is one transaction and the order frame, where one is needed, another
(R61, D9). -/
theorem transactionCount_initEvents (P : Params) (n : Half) (ty : LedType) (o : ColorOrder) :
    transactionCount (initEvents P n ty o) = if needsOrderFrame P ty o then 2 else 1 := by
  have hwait : transactionCount [.delay P.tInitUs] = 0 := rfl
  rw [initEvents]
  split <;> simp [sendFrame, orderTransaction, hwait]

theorem getLast?_initEvents (P : Params) (n : Half) (ty : LedType) (o : ColorOrder) :
    (initEvents P n ty o).getLast? = some (.delay P.tInitUs) := by
  rw [initEvents, List.getLast?_concat]

/-- Settles O5: the laws are those of `initCfg` and `initEvents`, and the count byte is the clamped
count or one more. -/
theorem initLaws : Obligations.InitLaws := by
  intro s n ty o hn
  have hlast := initCfg_lastIndex_toNat_succ hn ty o
  refine ⟨_, countByte n, exec_init_of_ne_zero hn ty o s, rfl, hlast, ?_⟩
  rw [newEvents_setCfg_emit, State.emit_cfg, State.setCfg_cfg, hlast, busBytes_initEvents,
    ← needsOrderFrame_eq_false_iff, transactionCount_initEvents]
  refine ⟨rfl, fun hc => ?_, fun h => if_neg (by simp [h]), fun h => if_pos (by simpa using h),
    getLast?_initEvents s.params n ty o⟩
  have hbyte := countByte_of_ne_zero hc
  omega

theorem typeByte_eq_ite (P : Params) (ty : LedType) :
    typeByte P ty = if ty = .rgb then P.typeByteRgb else P.typeByteRgbw := by
  cases ty <;> rfl

/-- INIT ends its last transaction, so chip-select is high whatever it was (R26, R40). -/
theorem foldl_csAfter_initEvents (P : Params) (n : Half) (ty : LedType) (o : ColorOrder)
    (l : Level) : (initEvents P n ty o).foldl csAfter l = .high := by
  rw [initEvents]
  split <;> simp [List.foldl_append, sendFrame, orderTransaction, csAfter]

/-- INIT sends no reset pulse (R33). -/
theorem foldl_rstAfter_initEvents (P : Params) (n : Half) (ty : LedType) (o : ColorOrder)
    (l : Level) : (initEvents P n ty o).foldl rstAfter l = l := by
  rw [initEvents_eq_segmentsEvents P 0]
  exact foldl_rstAfter_segmentsEvents (resetPulse_not_mem_sentSegments (by simp)) l

/-- Settles O3: the next state is `initCfg` written and `initEvents` emitted, with the lines as
those events leave them and the events written out. -/
theorem initWritesCfgAndSends : Obligations.InitWritesCfgAndSends := by
  intro s n ty o hn
  rw [exec_init_of_ne_zero hn, State.emit, State.setCfg_cs, State.setCfg_rst,
    foldl_csAfter_initEvents, foldl_rstAfter_initEvents]
  simp only [initEvents, needsOrderFrame_iff, typeByte_eq_ite, List.append_assoc]
  rfl

/-- Settles O7: the `CFG` INIT writes and the events it emits are made of `P` and its operands. -/
theorem reinitForgetsOldCfg : Obligations.ReinitForgetsOldCfg := by
  intro s₁ s₂ t₁ n ty o hP h
  by_cases hn : n = 0
  · rw [hn, exec_init_zero] at h; cases h
  · rw [exec_init_of_ne_zero hn] at h
    cases h
    exact ⟨_, exec_init_of_ne_zero hn ty o s₂, rfl, by simp only [newEvents_setCfg_emit, hP]⟩

end Sys2Proof.Machine
end

section
/-! The clamped hue in its two bytes (spec/30_encoding.md R45) and the colour-register commands
(spec/41_color_register.md R65 to R69). -/

namespace Sys2Proof.Machine

/-! ### The clamped hue -/

theorem clampHue_eq_self_iff {h : Nat} : clampHue h = h ↔ h ≤ 359 := min_eq_left_iff

theorem clampHue_idem (h : Nat) : clampHue (clampHue h) = clampHue h :=
  min_eq_left (min_le_right h hueMax)

theorem clampHue_mono : Monotone clampHue := fun _ _ hle => min_le_min_right hueMax hle

theorem hueLow_toNat (hue : Half) : (hueLow hue).toNat = min hue.toNat 359 % 256 :=
  Nat.mod_mod _ 256

/-- The high byte of a clamped hue is at most 1, so `trunc8` cuts nothing off it. -/
theorem hueHigh_toNat (hue : Half) : (hueHigh hue).toNat = min hue.toNat 359 / 256 := by
  have hbound : min hue.toNat 359 / 256 < 256 := by omega
  exact Nat.mod_eq_of_lt hbound

/-- The two bytes are quotient and remainder of the clamped hue by 256 (R69). -/
theorem hueLow_add_hueHigh (hue : Half) :
    (hueLow hue).toNat + 256 * (hueHigh hue).toNat = min hue.toNat 359 := by
  rw [hueLow_toNat, hueHigh_toNat, Nat.mod_add_div]

theorem hueHigh_eq_zero {hue : Half} (h : min hue.toNat 359 ≤ 255) : hueHigh hue = 0 := by
  have hquot : min hue.toNat 359 / 256 = 0 := by omega
  exact BitVec.eq_of_toNat_eq ((hueHigh_toNat hue).trans hquot)

theorem hueHigh_eq_one {hue : Half} (h : 256 ≤ min hue.toNat 359) : hueHigh hue = 1 := by
  have hquot : min hue.toNat 359 / 256 = 1 := by omega
  exact BitVec.eq_of_toNat_eq ((hueHigh_toNat hue).trans hquot)

/-- Settles O2: the bytes by division of the clamped hue, the clamp's laws as those of `min`. -/
theorem hueBytesCarryClampedHue : Obligations.HueBytesCarryClampedHue :=
  ⟨fun hue => ⟨hueLow_add_hueHigh hue, hueHigh_eq_zero, hueHigh_eq_one, clampHue_eq_self_iff⟩,
    clampHue_idem, fun _ _ hle => clampHue_mono hle⟩

/-! ### Commands of one frame -/

/-- A command that answers with one frame raises chip-select and appends that frame's transaction;
the rest of the state is as before (R26, R40). -/
theorem exec_of_response_sendFrame {i : Instr} {s : State} {f : Frame}
    (h : response i s.params s.cfg = .executed s.cfg (sendFrame s.params f)) :
    exec i s = .next { s with cs := .high, trace := s.trace ++ sendFrame s.params f } := by
  rw [exec_eq_answer, h, State.answer, State.setCfg_self, State.emit, sendFrame,
    foldl_csAfter_transaction, foldl_rstAfter_transaction]

/-- Settles O10: the frame of SETRGB is `[0xA1, r, g, b]`. -/
theorem setrgbSendsItsFrame : Obligations.SetrgbSendsItsFrame := fun _ r g b =>
  exec_of_response_sendFrame (f := .setrgb r g b) rfl

/-- Settles O11: the frame of SETRGBW is `[0xA2, r, g, b, w]`, whatever `CFG.ledType` is. -/
theorem setrgbwSendsItsFrame : Obligations.SetrgbwSendsItsFrame := fun _ r g b w =>
  exec_of_response_sendFrame (f := .setrgbw r g b w) rfl

/-- Settles O12: the frame of SETHSV carries the hue bytes in the order `P.HUE_LOW_FIRST` says. -/
theorem sethsvSendsClampedHue : Obligations.SethsvSendsClampedHue := by
  intro s hue sat val
  rw [exec_of_response_sendFrame
    (f := .sethsv (hueA s.params hue) (hueB s.params hue) sat val) rfl]
  unfold hueA hueB
  cases s.params.hueLowFirst with
  | true => rfl
  | false => rfl

end Sys2Proof.Machine
end

section
/-! The commands that check an index or a range before their one transaction, and the assign commands
(spec/42_assign.md R70 to R75). -/

namespace Sys2Proof.Machine

/-! ### One transaction, after a check or without one -/

theorem indexOk_eq_false_iff {last i : Byte} : indexOk last i = false ↔ last.toNat < i.toNat := by
  rw [← Bool.not_eq_true, indexOk_iff, not_le]

theorem rangeOk_eq_false_iff {last a e : Byte} : rangeOk last a e = false ↔
    e.toNat < a.toNat ∨ last.toNat < e.toNat ∨ last.toNat < a.toNat := by
  rw [← Bool.not_eq_true, rangeOk_iff]
  omega

/-- A command that answers with one transaction, fused or not, raises chip-select and appends it;
the rest of the state is as before (R26, R27, R40). -/
theorem exec_of_response_transaction {i : Instr} {s : State} {bs : List Byte}
    (h : response i s.params s.cfg = .executed s.cfg (transaction s.params bs)) :
    exec i s = .next { s with cs := .high, trace := s.trace ++ transaction s.params bs } := by
  rw [exec_eq_answer, h, State.answer, State.setCfg_self, State.emit,
    foldl_csAfter_transaction, foldl_rstAfter_transaction]

section CheckedCommand

variable {i : Instr} {s : State} {ok : Byte → Bool} {bs : List Byte}

theorem exec_refused_of_response_checked
    (h : response i s.params s.cfg = checked s.cfg ok (transaction s.params bs))
    (hvalid : s.cfg.valid = false) : exec i s = .refused .uninitialised := by
  rw [exec_eq_answer, h, checked_refuses hvalid, State.answer]

theorem exec_dropped_of_response_checked
    (h : response i s.params s.cfg = checked s.cfg ok (transaction s.params bs))
    (hvalid : s.cfg.valid = true) (hfails : ok s.cfg.lastIndex = false) :
    exec i s = .next s := by
  rw [exec_eq_answer, h, checked_drops hvalid hfails, State.answer]

theorem exec_executed_of_response_checked
    (h : response i s.params s.cfg = checked s.cfg ok (transaction s.params bs))
    (hvalid : s.cfg.valid = true) (hok : ok s.cfg.lastIndex = true) :
    exec i s = .next { s with cs := .high, trace := s.trace ++ transaction s.params bs } :=
  exec_of_response_transaction (h.trans (checked_executes hvalid hok))

end CheckedCommand

/-! ### The zero-colour frame -/

theorem zeroFrame_of_rgbw {P : Params} (h : P.clearColor = .rgbw) :
    zeroFrame P = .setrgbw 0 0 0 0 := by
  rw [zeroFrame, h]

theorem zeroFrame_of_rgb {P : Params} (h : P.clearColor = .rgb) :
    zeroFrame P = .setrgb 0 0 0 := by
  rw [zeroFrame, h]

/-! ### The assign commands -/

theorem response_setled (index : Byte) (s : State) :
    response (.setled index) s.params s.cfg =
      checked s.cfg (indexOk · index) (transaction s.params (Frame.setled index).bytes) := rfl

theorem response_clearled (index : Byte) (s : State) :
    response (.clearled index) s.params s.cfg =
      checked s.cfg (indexOk · index)
        (transaction s.params ((zeroFrame s.params).bytes ++ (Frame.setled index).bytes)) := rfl

theorem response_setrange (a e : Byte) (s : State) :
    response (.setrange a e) s.params s.cfg =
      checked s.cfg (rangeOk · a e) (transaction s.params (Frame.setrange a e).bytes) := rfl

theorem response_setrainbow (hue : Half) (sat val a e step : Byte) (s : State) :
    response (.setrainbow hue sat val a e step) s.params s.cfg =
      checked s.cfg (rangeOk · a e) (transaction s.params
        (Frame.rainbow (hueA s.params hue) (hueB s.params hue) sat val a e step).bytes) := rfl

/-- Settles O13: SETLED is its frame behind the index check. -/
theorem setledExecutesDropsOrRefuses : Obligations.SetledExecutesDropsOrRefuses := fun s index =>
  have hresponse := response_setled index s
  ⟨exec_refused_of_response_checked hresponse,
    fun hvalid habove =>
      exec_dropped_of_response_checked hresponse hvalid (indexOk_eq_false_iff.2 habove),
    fun hvalid hle => exec_executed_of_response_checked hresponse hvalid (indexOk_iff.2 hle)⟩

/-- Settles O14: CLEARLED is the zero-colour frame fused with SETLED's, behind the index check. -/
theorem clearledExecutesDropsOrRefuses : Obligations.ClearledExecutesDropsOrRefuses := by
  intro s index
  have hresponse := response_clearled index s
  refine ⟨exec_refused_of_response_checked hresponse, ?drops, ?rgbw, ?rgb⟩
  case drops =>
    intro hvalid habove
    exact exec_dropped_of_response_checked hresponse hvalid (indexOk_eq_false_iff.2 habove)
  case rgbw =>
    intro hvalid hle hcolor
    rw [zeroFrame_of_rgbw hcolor] at hresponse
    exact exec_executed_of_response_checked hresponse hvalid (indexOk_iff.2 hle)
  case rgb =>
    intro hvalid hle hcolor
    rw [zeroFrame_of_rgb hcolor] at hresponse
    exact exec_executed_of_response_checked hresponse hvalid (indexOk_iff.2 hle)

/-- Settles O15: the frame of SETALL is `[0xA5]`. -/
theorem setallSendsItsFrame : Obligations.SetallSendsItsFrame := fun _ =>
  exec_of_response_sendFrame (f := .setall) rfl

/-- Settles O16: CLEARALL is the zero-colour frame fused with SETALL's. -/
theorem clearallSendsFusedFrames : Obligations.ClearallSendsFusedFrames := by
  intro s
  rw [exec_of_response_transaction
    (bs := (zeroFrame s.params).bytes ++ Frame.setall.bytes) rfl]
  cases hcolor : s.params.clearColor with
  | rgb => rw [zeroFrame_of_rgb hcolor]; rfl
  | rgbw => rw [zeroFrame_of_rgbw hcolor]; rfl

/-- Settles O17: SETRANGE is its frame behind the range check. -/
theorem setrangeExecutesDropsOrRefuses : Obligations.SetrangeExecutesDropsOrRefuses := fun s a e =>
  have hresponse := response_setrange a e s
  ⟨exec_refused_of_response_checked hresponse,
    fun hvalid hoff =>
      exec_dropped_of_response_checked hresponse hvalid (rangeOk_eq_false_iff.2 hoff),
    fun hvalid hforward hend =>
      exec_executed_of_response_checked hresponse hvalid (rangeOk_iff.2 ⟨hforward, hend⟩)⟩

/-- Settles O18: SETRAINBOW is its frame behind the range check, which does not read the hue; the
hue bytes of the frame stand in the order `P.HUE_LOW_FIRST` says. -/
theorem setrainbowExecutesDropsOrRefuses : Obligations.SetrainbowExecutesDropsOrRefuses := by
  intro s hue sat val a e step
  have hresponse := response_setrainbow hue sat val a e step s
  refine ⟨exec_refused_of_response_checked hresponse, ?drops, ?executes⟩
  case drops =>
    intro hvalid hoff
    exact exec_dropped_of_response_checked hresponse hvalid (rangeOk_eq_false_iff.2 hoff)
  case executes =>
    intro hvalid hforward hend
    rw [exec_executed_of_response_checked hresponse hvalid (rangeOk_iff.2 ⟨hforward, hend⟩)]
    unfold hueA hueB
    cases s.params.hueLowFirst with
    | true => rfl
    | false => rfl

end Sys2Proof.Machine
end

section
/-! The buffer commands SHIFTUP, SHIFTDOWN, COPYLED and REPEAT (spec/43_buffer_ops.md R79 to R82). -/

namespace Sys2Proof.Machine

/-- The three outcomes of a command that is one transaction behind the range check
(R18, R101, R102): refused before INIT, dropped off the strip, executed on it. -/
theorem exec_of_response_rangeChecked {i : Instr} {s : State} {a e : Byte} {bs : List Byte}
    (h : response i s.params s.cfg =
      checked s.cfg (rangeOk · a e) (transaction s.params bs)) :
    (s.cfg.valid = false → exec i s = .refused .uninitialised) ∧
    (s.cfg.valid = true →
      (e.toNat < a.toNat ∨ s.cfg.lastIndex.toNat < e.toNat ∨ s.cfg.lastIndex.toNat < a.toNat) →
      exec i s = .next s) ∧
    (s.cfg.valid = true → a.toNat ≤ e.toNat → e.toNat ≤ s.cfg.lastIndex.toNat →
      exec i s = .next { s with cs := .high, trace := s.trace ++ transaction s.params bs }) :=
  ⟨exec_refused_of_response_checked h,
    fun hvalid hoff => exec_dropped_of_response_checked h hvalid (rangeOk_eq_false_iff.2 hoff),
    fun hvalid hforward hend =>
      exec_executed_of_response_checked h hvalid (rangeOk_iff.2 ⟨hforward, hend⟩)⟩

/-! ### The shifts -/

theorem bytes_shift (w : ShiftWire) (a e count : Byte) :
    (Frame.shift w a e count).bytes = [if w = .dirA then 0xB3 else 0xB4, a, e, count] := by
  cases w with
  | dirA => rfl
  | dirB => rfl

theorem response_shiftup (a e count : Byte) (s : State) :
    response (.shiftup a e count) s.params s.cfg =
      checked s.cfg (rangeOk · a e) (transaction s.params
        [if s.params.opShiftUpWire = .dirA then 0xB3 else 0xB4, a, e, count]) := by
  rw [← bytes_shift]
  rfl

theorem response_shiftdown (a e count : Byte) (s : State) :
    response (.shiftdown a e count) s.params s.cfg =
      checked s.cfg (rangeOk · a e) (transaction s.params
        [if s.params.opShiftDownWire = .dirA then 0xB3 else 0xB4, a, e, count]) := by
  rw [← bytes_shift]
  rfl

/-- The two shifts differ in their opcode of `P` alone (R79). -/
theorem exec_shiftup_eq_exec_shiftdown {s : State} (a e count : Byte)
    (h : s.params.opShiftUpWire = s.params.opShiftDownWire) :
    exec (.shiftup a e count) s = exec (.shiftdown a e count) s := by
  rw [exec_eq_answer, exec_eq_answer, response_shiftup, response_shiftdown, h]

/-- Settles O19: SHIFTUP is its frame behind the range check, and differs from SHIFTDOWN in its
opcode alone. -/
theorem shiftupExecutesDropsOrRefuses : Obligations.ShiftupExecutesDropsOrRefuses := by
  intro s a e count
  obtain ⟨hrefuses, hdrops, hexecutes⟩ :=
    exec_of_response_rangeChecked (response_shiftup a e count s)
  exact ⟨hrefuses, hdrops, hexecutes, exec_shiftup_eq_exec_shiftdown a e count⟩

/-- Settles O20: SHIFTDOWN is its frame behind the range check. -/
theorem shiftdownExecutesDropsOrRefuses : Obligations.ShiftdownExecutesDropsOrRefuses :=
  fun s a e count => exec_of_response_rangeChecked (response_shiftdown a e count s)

/-! ### COPYLED -/

theorem response_copyled (f t : Byte) (s : State) :
    response (.copyled f t) s.params s.cfg =
      checked s.cfg (fun last => indexOk last f && indexOk last t)
        (transaction s.params (Frame.copyled f t).bytes) := rfl

/-- Settles O21: COPYLED is its frame behind two index checks, neither of which reads the other's
index. -/
theorem copyledExecutesDropsOrRefuses : Obligations.CopyledExecutesDropsOrRefuses := by
  intro s f t
  have hresponse := response_copyled f t s
  refine ⟨exec_refused_of_response_checked hresponse, ?drops, ?executes⟩
  case drops =>
    intro hvalid habove
    refine exec_dropped_of_response_checked hresponse hvalid ?_
    rwa [Bool.and_eq_false_iff, indexOk_eq_false_iff, indexOk_eq_false_iff]
  case executes =>
    intro hvalid hfrom hto
    refine exec_executed_of_response_checked hresponse hvalid ?_
    rw [Bool.and_eq_true_iff, indexOk_iff, indexOk_iff]
    exact ⟨hfrom, hto⟩

/-! ### REPEAT -/

theorem response_repeatRange (a e count : Byte) (s : State) :
    response (.repeatRange a e count) s.params s.cfg =
      checked s.cfg (rangeOk · a e)
        (transaction s.params (Frame.repeatRange a e count).bytes) := rfl

/-- Settles O22: REPEAT is its frame behind the range check, which does not read `count`. -/
theorem repeatExecutesDropsOrRefuses : Obligations.RepeatExecutesDropsOrRefuses :=
  fun s a e count => exec_of_response_rangeChecked (response_repeatRange a e count s)

end Sys2Proof.Machine
end

section
/-! SHOW and RESETCHIP (spec/44_show_and_reset.md R86 to R89), and what a command asks the caller to
wait (R128). -/

namespace Sys2Proof.Machine

/-! ### SHOW -/

/-- SHOW ends its transaction before the wait for the LEDs (R26, R35). -/
theorem foldl_csAfter_showEvents (P : Params) (last : Byte) (l : Level) :
    (showEvents P last).foldl csAfter l = .high := by
  simp [showEvents, sendFrame, csAfter]

theorem foldl_rstAfter_showEvents (P : Params) (last : Byte) (l : Level) :
    (showEvents P last).foldl rstAfter l = l := by
  simp [showEvents, sendFrame, rstAfter]

theorem exec_showStrip_of_invalid {s : State} (h : s.cfg.valid = false) :
    exec .showStrip s = .refused .uninitialised := by
  rw [exec_eq_answer, response, showStripResponse, withLastIndex_of_invalid h, State.answer]

theorem exec_showStrip_of_valid {s : State} (h : s.cfg.valid = true) :
    exec .showStrip s = .next (s.emit (showEvents s.params s.cfg.lastIndex)) := by
  rw [exec_eq_answer, response, showStripResponse, withLastIndex_of_valid h, State.answer,
    State.setCfg_self]

/-- Settles O23: SHOW emits `showEvents` once `CFG` is valid, and those leave chip-select high and
the reset line alone. -/
theorem showSendsAndWaitsPerLed : Obligations.ShowSendsAndWaitsPerLed := by
  intro s
  refine ⟨exec_showStrip_of_invalid, fun hvalid => ?_⟩
  rw [exec_showStrip_of_valid hvalid, State.emit, foldl_csAfter_showEvents,
    foldl_rstAfter_showEvents]
  rfl

/-! ### RESETCHIP -/

theorem exec_resetchip (s : State) : exec .resetchip s = .next (s.emit (resetEvents s.params)) := by
  rw [exec_eq_answer, response, resetchipResponse, State.answer, State.setCfg_self]

theorem resetEvents_of_line {P : Params} (h : P.hasResetLine = true) :
    resetEvents P = [.rstLow, .delay P.tRstLowUs, .rstHigh, .delay P.tRstHighUs] := if_pos h

theorem resetEvents_of_no_line {P : Params} (h : P.hasResetLine = false) : resetEvents P = [] :=
  if_neg (by simp [h])

/-- Settles O24: the pulse ends with the line high; without a line nothing is emitted. -/
theorem resetchipPulsesTheLine : Obligations.ResetchipPulsesTheLine := by
  intro s
  constructor
  · intro hline
    rw [exec_resetchip, resetEvents_of_line hline]
    rfl
  · intro hline
    rw [exec_resetchip, resetEvents_of_no_line hline, State.emit_nil]

/-! ### The waits of a command -/

/-- What a piece asks the caller to wait beyond the settle delay that ends every transaction
(R26, R128). -/
def Segment.extraWait (P : Params) : Segment → Nat
  | .single _ => 0
  | .fused _ _ => 0
  | .wait n => n
  | .resetPulse => P.tRstLowUs + P.tRstHighUs

theorem Segment.waitTotal_events (P : Params) (g : Segment) :
    waitTotal (g.events P) = transactionCount (g.events P) * P.tCmdUs + g.extraWait P := by
  cases g with
  | single | fused => simp [Segment.events, Segment.extraWait]
  | wait n => simp [Segment.events, Segment.extraWait, waitTotal, transactionCount]
  | resetPulse => simp [Segment.events, Segment.extraWait, waitTotal, transactionCount]

/-- The waits of R128: a settle delay for each transaction, and what the pieces add. -/
theorem waitTotal_segmentsEvents (P : Params) (gs : List Segment) :
    waitTotal (segmentsEvents P gs) =
      transactionCount (segmentsEvents P gs) * P.tCmdUs + (gs.map (Segment.extraWait P)).sum := by
  induction gs with
  | nil => simp
  | cons g gs ih =>
    simp only [segmentsEvents_cons, waitTotal_append, transactionCount_append, List.map_cons,
      List.sum_cons, Segment.waitTotal_events, ih]
    ring

/-- A command that passes its check waits for its transactions and for what its pieces add. -/
theorem waitTotal_of_exec {i : Instr} {s t : State} (h : exec i s = .next t)
    (hdrop : dropsAt s.cfg.lastIndex i = false) :
    waitTotal (newEvents s t) = transactionCount (newEvents s t) * s.params.tCmdUs +
      ((sentSegments s.params s.cfg.lastIndex i).map (Segment.extraWait s.params)).sum := by
  obtain ⟨-, -, c, rfl⟩ | ⟨hdropped, -⟩ := exec_next_cases h
  · rw [newEvents_setCfg_emit, waitTotal_segmentsEvents]
  · exact absurd hdropped (by simp [hdrop])

theorem newEvents_of_exec_dropped {i : Instr} {s t : State} (h : exec i s = .next t)
    (hdrop : dropsAt s.cfg.lastIndex i = true) : newEvents s t = [] :=
  (silentExactlyWhenDroppedOrEmpty i s t h).2 (.inl hdrop)

/-- INIT adds the warm-up delay to its transactions, with and without an order frame (R59, R61). -/
theorem sum_extraWait_init (P : Params) (last : Byte) (n : Half) (ty : LedType) (o : ColorOrder) :
    ((sentSegments P last (.init n ty o)).map (Segment.extraWait P)).sum = P.tInitUs := by
  rw [sentSegments]
  split <;> simp [Segment.extraWait]

/-- GRADIENT adds nothing: a single point and a span are transactions alone (R92, R95). -/
theorem sum_extraWait_gradient (P : Params) (last : Byte) (a e : Half) (fc tc : Rgb) :
    ((sentSegments P last (.gradient a e fc tc)).map (Segment.extraWait P)).sum = 0 := by
  rw [sentSegments]
  split <;> simp [Function.comp_def, Segment.extraWait]

theorem waitTotal_showEvents (P : Params) (last : Byte) :
    waitTotal (showEvents P last) = P.tCmdUs + P.tLedUs * (last.toNat + 1) := by
  rw [showEvents, waitTotal_append, sendFrame, waitTotal_transaction]
  rfl

/-- Settles O42: INIT and GRADIENT by the waits their pieces add, SHOW by its two delays. A reversed
gradient is dropped and waits for nothing. -/
theorem waitTotals : Obligations.WaitTotals := by
  refine ⟨?init, ?showStrip, ?gradient⟩
  case init =>
    intro s t n ty o h
    rw [waitTotal_of_exec h rfl, sum_extraWait_init]
  case showStrip =>
    intro s t h
    cases hvalid : s.cfg.valid with
    | false => rw [exec_showStrip_of_invalid hvalid] at h; cases h
    | true =>
      rw [exec_showStrip_of_valid hvalid] at h
      cases h
      rw [newEvents_emit, waitTotal_showEvents]
  case gradient =>
    intro s t a e fc tc h
    cases hdrop : dropsAt s.cfg.lastIndex (.gradient a e fc tc) with
    | false => rw [waitTotal_of_exec h hdrop, sum_extraWait_gradient, Nat.add_zero]
    | true => simp [newEvents_of_exec_dropped h hdrop]

end Sys2Proof.Machine
end

section
/-! The gradient's arithmetic (spec/45_gradient.md R93, R94, R96, R97): which offsets it visits, and
the channels between the two endpoint colours. -/

namespace Sys2Proof.Machine

/-! ### The offsets as the LEDs of the strip -/

theorem mem_visibleIndices {last : Byte} {a e : Int} {i : Nat} :
    i ∈ visibleIndices last a e ↔ i ≤ last.toNat ∧ a ≤ i ∧ i ≤ e := by
  simp [visibleIndices]

theorem pairwise_lt_gradientSteps (a e : Int) (last : Byte) :
    (gradientSteps a e last).Pairwise (· < ·) :=
  List.pairwise_lt_range.map _ fun _ _ hlt => by omega

theorem pairwise_lt_visibleIndices (last : Byte) (a e : Int) :
    (visibleIndices last a e).Pairwise (· < ·) :=
  List.pairwise_lt_range.filter _

/-- Both lists ascend and hold the same offsets, so they are one list (R93, D16). -/
theorem gradientSteps_eq_map_visibleIndices (a e : Int) (last : Byte) :
    gradientSteps a e last = (visibleIndices last a e).map fun (i : Nat) => (i : Int) - a := by
  have hascends : ((visibleIndices last a e).map fun (i : Nat) => (i : Int) - a).Pairwise (· < ·) :=
    (pairwise_lt_visibleIndices last a e).map _ fun _ _ hlt => by omega
  refine (pairwise_lt_gradientSteps a e last).eq_of_mem_iff hascends fun x => ?_
  rw [mem_gradientSteps, List.mem_map]
  constructor
  · rintro ⟨hx, hspan, hlo, hhi⟩
    exact ⟨(a + x).toNat, mem_visibleIndices.2 (by omega), by omega⟩
  · rintro ⟨i, hi, rfl⟩
    rw [mem_visibleIndices] at hi
    omega

/-- Settles O30: the offsets are the visible indices less `start`, so adding `start` gives the
indices back. -/
theorem gradientStepsSelectTheStrip : Obligations.GradientStepsSelectTheStrip := by
  intro last a e _
  refine ⟨fun x => mem_gradientSteps, ?_⟩
  rw [gradientSteps_eq_map_visibleIndices, List.map_map]
  exact List.map_congr_left fun i _ => add_sub_cancel a (i : Int)

/-! ### The channels -/

/-- R94 with Lean's division truncating toward zero. -/
theorem channelAt_eq_intTdiv (f t : Byte) (x steps : Int) :
    channelAt f t x steps = f.toNat + Int.tdiv ((t.toNat - f.toNat) * x) steps := by
  rw [channelAt, tdiv_eq_intTdiv]

theorem channelAt_zero (f t : Byte) (steps : Int) : channelAt f t 0 steps = f.toNat := by
  simp [channelAt_eq_intTdiv]

theorem channelAt_steps (f t : Byte) {steps : Int} (h : 0 < steps) :
    channelAt f t steps steps = t.toNat := by
  rw [channelAt_eq_intTdiv, Int.mul_tdiv_cancel _ h.ne', add_sub_cancel]

theorem channelAt_const (f : Byte) (x steps : Int) : channelAt f f x steps = f.toNat := by
  simp [channelAt_eq_intTdiv]

/-- Truncating division by a positive span keeps order, so a channel goes the way of its scaled
difference (R96 e). -/
theorem channelAt_le_of_scaled_le {f t : Byte} {x y steps : Int} (hsteps : 0 < steps)
    (h : ((t.toNat : Int) - f.toNat) * x ≤ (t.toNat - f.toNat) * y) :
    channelAt f t x steps ≤ channelAt f t y steps := by
  rw [channelAt_eq_intTdiv, channelAt_eq_intTdiv]
  exact Int.add_le_add_left (Int.tdiv_le_tdiv hsteps h) _

theorem channelAt_monotone {f t : Byte} (h : f.toNat ≤ t.toNat) {steps : Int} (hsteps : 0 < steps) :
    Monotone fun x => channelAt f t x steps := fun _ _ hle =>
  channelAt_le_of_scaled_le hsteps (mul_le_mul_of_nonneg_left hle (by omega))

theorem channelAt_antitone {f t : Byte} (h : t.toNat ≤ f.toNat) {steps : Int} (hsteps : 0 < steps) :
    Antitone fun x => channelAt f t x steps := fun _ _ hle =>
  channelAt_le_of_scaled_le hsteps (mul_le_mul_of_nonpos_left hle (by omega))

/-- A channel moves one way from `from` at offset 0 to `to` at the last offset, so it stays between
them (R96 c). -/
theorem channelAt_mem_Icc (f t : Byte) {x steps : Int} (hsteps : 0 < steps) (hlo : 0 ≤ x)
    (hhi : x ≤ steps) :
    channelAt f t x steps ∈ Set.Icc (min f.toNat t.toNat : Int) (max f.toNat t.toNat) := by
  have hfirst := channelAt_zero f t steps
  have hlast := channelAt_steps f t hsteps
  rw [Set.mem_Icc]
  obtain hrises | hfalls := le_total f.toNat t.toNat
  · have hlower := channelAt_monotone hrises hsteps hlo
    have hupper := channelAt_monotone hrises hsteps hhi
    simp only [hfirst, hlast] at hlower hupper
    omega
  · have hupper := channelAt_antitone hfalls hsteps hlo
    have hlower := channelAt_antitone hfalls hsteps hhi
    simp only [hfirst, hlast] at hlower hupper
    omega

/-- Nothing is cut off a channel inside the span when it is sent as a byte (R96 c). -/
theorem channelByte_toNat (f t : Byte) {x steps : Int} (hsteps : 0 < steps) (hlo : 0 ≤ x)
    (hhi : x ≤ steps) : ((channelByte f t x steps).toNat : Int) = channelAt f t x steps := by
  obtain ⟨hlower, hupper⟩ := channelAt_mem_Icc f t hsteps hlo hhi
  have hf := f.isLt
  have ht := t.isLt
  rw [channelByte, BitVec.toNat_ofInt]
  omega

/-- Settles O31: the channel's ends, its direction, and what follows of both for every offset
between. -/
theorem gradientChannelLaws : Obligations.GradientChannelLaws := by
  intro f t steps hsteps
  refine ⟨?between, channelAt_zero f t steps, channelAt_steps f t hsteps, ?direction, ?constant⟩
  case between =>
    intro x hlo hhi
    obtain ⟨hlower, hupper⟩ := channelAt_mem_Icc f t hsteps hlo hhi
    exact ⟨hlower, hupper, channelByte_toNat f t hsteps hlo hhi⟩
  case direction =>
    intro x y _ hle _
    exact ⟨fun h => channelAt_monotone h hsteps hle, fun h => channelAt_antitone h hsteps hle⟩
  case constant =>
    rintro rfl x
    exact channelAt_const f x steps

/-! ### How large the intermediate values get -/

/-- Settles O32: the bounds of 16-bit operands and of bytes, and of the product by its factors. -/
theorem gradientIntermediatesAreSmall : Obligations.GradientIntermediatesAreSmall := by
  intro a e last f t x hx
  obtain ⟨hnonneg, hspan, hstrip, -⟩ := mem_gradientSteps.1 hx
  have ha : -32768 ≤ a.toInt := a.le_toInt
  have he : e.toInt < 32768 := e.toInt_lt
  have hlast := last.isLt
  have hdifference : ((t.toNat : Int) - f.toNat).natAbs ≤ 255 := by omega
  have hproduct : (((t.toNat : Int) - f.toNat) * x).natAbs ≤ 255 * 65535 := by
    rw [Int.natAbs_mul]
    exact Nat.mul_le_mul hdifference (by omega)
  omega

end Sys2Proof.Machine
end

section
/-! GRADIENT as a command (spec/45_gradient.md R90 to R95, R98): its three stages, and the
transactions of a span. -/

namespace Sys2Proof.Machine

/-! ### A list of transactions -/

section TransactionList

variable {α : Type} (P : Params) (bytes : α → List Byte) (xs : List α)

theorem transactionCount_flatMap_transaction :
    transactionCount (xs.flatMap fun x => transaction P (bytes x)) = xs.length := by
  induction xs with
  | nil => rfl
  | cons x xs ih => simp [ih, Nat.add_comm]

theorem busBytes_flatMap_transaction :
    busBytes (xs.flatMap fun x => transaction P (bytes x)) = xs.flatMap bytes := by
  induction xs with
  | nil => rfl
  | cons x xs ih => simp [ih]

/-- Chip-select is high after the last transaction, and untouched if there is none (R40). -/
theorem foldl_csAfter_flatMap_transaction (l : Level) :
    (xs.flatMap fun x => transaction P (bytes x)).foldl csAfter l =
      if xs = [] then l else .high := by
  induction xs generalizing l with
  | nil => rfl
  | cons x xs ih => simp [ih]

theorem foldl_rstAfter_flatMap_transaction (l : Level) :
    (xs.flatMap fun x => transaction P (bytes x)).foldl rstAfter l = l := by
  induction xs with
  | nil => rfl
  | cons x xs ih => simp [ih]

end TransactionList

/-! ### The transactions of a span -/

/-- The six bytes a gradient sends for the LED `i` of its range (R94, R95). -/
def gradientLedBytes (a e : Int) (fc tc : Rgb) (i : Nat) : List Byte :=
  [0xA1, channelByte fc.r tc.r (i - a) (e - a), channelByte fc.g tc.g (i - a) (e - a),
    channelByte fc.b tc.b (i - a) (e - a), 0xA4, BitVec.ofNat 8 i]

theorem gradientStep_sub (P : Params) (a e : Int) (fc tc : Rgb) (i : Nat) :
    gradientStep P a (e - a) fc tc (i - a) = transaction P (gradientLedBytes a e fc tc i) := by
  rw [gradientStep, add_sub_cancel, BitVec.ofInt_natCast]
  rfl

/-- One transaction for each LED of the strip in the range, ascending (R93, R95). -/
theorem gradientEvents_eq_flatMap (P : Params) (last : Byte) (a e : Int) (fc tc : Rgb) :
    gradientEvents P last a e fc tc =
      (visibleIndices last a e).flatMap fun i => transaction P (gradientLedBytes a e fc tc i) := by
  simp only [gradientEvents, gradientSteps_eq_map_visibleIndices, List.flatMap_map,
    gradientStep_sub]

theorem length_gradientSteps (a e : Int) (last : Byte) :
    ((gradientSteps a e last).length : Int) = max 0 (min e last.toNat - max a 0 + 1) := by
  simp only [gradientSteps, gradientLo, gradientHi, List.length_map, List.length_range]
  omega

theorem transactionCount_gradientEvents (P : Params) (last : Byte) (a e : Int) (fc tc : Rgb) :
    (transactionCount (gradientEvents P last a e fc tc) : Int) =
      max 0 (min e last.toNat - max a 0 + 1) := by
  rw [← length_gradientSteps, gradientSteps_eq_map_visibleIndices, List.length_map,
    gradientEvents_eq_flatMap, transactionCount_flatMap_transaction]

theorem length_busBytes_gradientEvents (P : Params) (last : Byte) (a e : Int) (fc tc : Rgb) :
    (busBytes (gradientEvents P last a e fc tc)).length =
      6 * transactionCount (gradientEvents P last a e fc tc) := by
  have hsix : ∀ i, (gradientLedBytes a e fc tc i).length = 6 := fun _ => rfl
  simp [gradientEvents_eq_flatMap, transactionCount_flatMap_transaction,
    busBytes_flatMap_transaction, List.length_flatMap, hsix, Nat.mul_comm]

/-! ### The three stages of R90 -/

theorem exec_setrgb (r g b : Byte) (s : State) :
    exec (.setrgb r g b) s = .next (s.emit (sendFrame s.params (.setrgb r g b))) :=
  exec_eq_answer (.setrgb r g b) s

section Stages

variable {a e : Half} (fc tc : Rgb) {s : State}

theorem exec_gradient_of_reversed (h : e.toInt < a.toInt) :
    exec (.gradient a e fc tc) s = .next s := by
  rw [exec_eq_answer, response, gradientResponse, if_pos h, State.answer]

theorem exec_gradient_of_point (h : e.toInt = a.toInt) :
    exec (.gradient a e fc tc) s = exec (.setrgb fc.r fc.g fc.b) s := by
  rw [exec_setrgb, exec_eq_answer, response, gradientResponse, if_neg h.not_lt, if_pos h,
    State.answer, State.setCfg_self]

theorem exec_gradient_of_span (hvalid : s.cfg.valid = true) (h : a.toInt < e.toInt) :
    exec (.gradient a e fc tc) s =
      .next (s.emit (gradientEvents s.params s.cfg.lastIndex a.toInt e.toInt fc tc)) := by
  rw [exec_eq_answer, response, gradientResponse, if_neg h.not_gt, if_neg h.ne',
    withLastIndex_of_valid hvalid, State.answer, State.setCfg_self]

end Stages

/-- Settles O27: a single point is SETRGB of the first colour, which sends its frame in any
state. -/
theorem gradientSinglePointIsSetrgb : Obligations.GradientSinglePointIsSetrgb := by
  intro s k fc tc
  have hpoint := exec_gradient_of_point (s := s) fc tc (rfl : k.toInt = k.toInt)
  exact ⟨hpoint, hpoint.trans (setrgbSendsItsFrame s fc.r fc.g fc.b)⟩

/-- Settles O28: a span emits one transaction for each LED it shows, and those leave chip-select high
if there is one and the reset line alone. -/
theorem gradientPaintsVisibleLeds : Obligations.GradientPaintsVisibleLeds := by
  intro s a e fc tc hvalid hspan
  rw [exec_gradient_of_span fc tc hvalid hspan, State.emit, gradientEvents_eq_flatMap,
    foldl_csAfter_flatMap_transaction, foldl_rstAfter_flatMap_transaction]
  simp only [gradientLedBytes, channelByte, channelAt_eq_intTdiv]
  rfl

/-- Settles O33: nothing, SETRGB's transaction, or one transaction of six bytes for each LED shown,
by the three stages. -/
theorem gradientTransactionCount : Obligations.GradientTransactionCount := by
  intro s a e fc tc hvalid
  obtain hreversed | hpoint | hspan := lt_trichotomy e.toInt a.toInt
  · refine ⟨s, exec_gradient_of_reversed fc tc hreversed, ?_⟩
    rw [newEvents_self, transactionCount_nil]
    omega
  · refine ⟨_, (exec_gradient_of_point fc tc hpoint).trans (exec_setrgb _ _ _ s), ?_⟩
    rw [newEvents_emit, busBytes_sendFrame, sendFrame, transactionCount_transaction]
    have hbytes : (Frame.setrgb fc.r fc.g fc.b).bytes.length = 4 := rfl
    omega
  · refine ⟨_, exec_gradient_of_span fc tc hvalid hspan, ?_⟩
    have hcount := transactionCount_gradientEvents s.params s.cfg.lastIndex a.toInt e.toInt fc tc
    have hbytes := length_busBytes_gradientEvents s.params s.cfg.lastIndex a.toInt e.toInt fc tc
    rw [newEvents_emit]
    omega

end Sys2Proof.Machine
end

section
/-! Refusal, completion and drop (spec/60_exceptions.md R100 to R102, R108): when a command has no
next state, and when its next state is the one before. -/

namespace Sys2Proof.Machine

/-! ### Refusals -/

/-- What goes on from `CFG.lastIndex` to no refusal of its own is refused before INIT only (R18). -/
theorem withLastIndex_eq_refused {c : Cfg} {k : Byte → Response} {why : Refusal}
    (hk : ∀ last, k last ≠ .refused why) :
    withLastIndex c k = .refused why ↔ why = .uninitialised ∧ c.valid = false := by
  cases hv : c.valid <;> simp [withLastIndex, hv, hk, eq_comm]

theorem initResponse_eq_refused {P : Params} {n : Half} {ty : LedType} {o : ColorOrder}
    {why : Refusal} :
    initResponse P n ty o = .refused why ↔ why = .reservedLedCount ∧ n = 0 := by
  unfold initResponse
  split
  · next hn => simp [hn, eq_comm]
  · next hn => exact iff_of_false nofun fun ⟨_, hzero⟩ => hn hzero

/-- Of the three stages of R90 only the span reads `CFG.lastIndex`. -/
theorem gradientResponse_eq_refused {P : Params} {c : Cfg} {a e : Int} {fc tc : Rgb}
    {why : Refusal} :
    gradientResponse P c a e fc tc = .refused why ↔
      why = .uninitialised ∧ a < e ∧ c.valid = false := by
  unfold gradientResponse
  obtain hreversed | hpoint | hspan := lt_trichotomy e a
  · simp [hreversed, hreversed.not_gt]
  · simp [hpoint]
  · rw [if_neg hspan.not_gt, if_neg hspan.ne', withLastIndex_eq_refused (by simp)]
    simp [hspan]

/-- R108 for responses: the commands that always execute, the index-checked ones, the two that read
`CFG.lastIndex` without a check, INIT and the reserved row. -/
theorem response_eq_refused {i : Instr} {P : Params} {c : Cfg} {why : Refusal} :
    response i P c = .refused why ↔
      (why = .uninitialised ∧ readsLastIndex i = true ∧ c.valid = false) ∨
      (why = .reservedLedCount ∧ ∃ ty o, i = .init 0 ty o) ∨
      (why = .reservedOpcode ∧ i = .reservedA8) := by
  cases i with
  | init n ty o => simp [response, initResponse_eq_refused, readsLastIndex]
  | rgborder | setrgb | setrgbw | sethsv | setall | clearall | resetchip =>
    exact iff_of_false nofun (by simp [readsLastIndex])
  | setled | clearled | setrange | setrainbow | shiftup | shiftdown | copyled | repeatRange =>
    simp only [response]
    refine checked_eq_refused.trans ?_
    simp [readsLastIndex, and_comm, eq_comm (b := why)]
  | showStrip =>
    rw [response, showStripResponse, withLastIndex_eq_refused (by simp)]
    simp [readsLastIndex]
  | gradient a e fc tc =>
    refine gradientResponse_eq_refused.trans ?_
    simp [readsLastIndex]
  | reservedA8 => simp [response, reservedA8Response, readsLastIndex, eq_comm (b := why)]

/-- Settles O37: a refusal is the response's, and the response names one of the three reasons. -/
theorem refusalsAreExactlyTheListed : Obligations.RefusalsAreExactlyTheListed := by
  intro i s why
  rw [exec_eq_answer, State.answer_eq_refused, response_eq_refused]

/-! ### Completion -/

/-- An instruction that meets no reason for a refusal answers, since nothing faults (R100, R115). -/
theorem exec_completes {i : Instr} {s : State} (hres : i ≠ .reservedA8)
    (hvalid : readsLastIndex i = true → s.cfg.valid = true) (hinit : ∀ ty o, i ≠ .init 0 ty o) :
    ∃ t, exec i s = .next t := by
  cases hexec : exec i s with
  | next t => exact ⟨t, rfl⟩
  | fault f => exact nomatch f
  | refused why =>
    obtain ⟨-, hreads, hinvalid⟩ | ⟨-, ty, o, hi⟩ | ⟨-, hi⟩ :=
      (refusalsAreExactlyTheListed i s why).1 hexec
    · exact absurd (hvalid hreads) (by simp [hinvalid])
    · exact absurd hi (hinit ty o)
    · exact absurd hi hres

/-- Settles O38: of the refusals the premises leave the reserved row, which is no command. -/
theorem everyCommandCompletes : Obligations.EveryCommandCompletes := by
  intro i s hwf hvalid hinit
  refine exec_completes ?_ hvalid hinit
  rintro rfl
  cases hwf

/-! ### Drops -/

theorem ne_init_of_dropsAt {last : Byte} {i : Instr} (h : dropsAt last i = true) (n : Half)
    (ty : LedType) (o : ColorOrder) : i ≠ .init n ty o := by
  rintro rfl
  cases h

theorem wellFormed_of_dropsAt {last : Byte} {i : Instr} (h : dropsAt last i = true) :
    i.wellFormed = true := by
  cases i with
  | rgborder | reservedA8 => cases h
  | _ => rfl

/-- A command that answers and meets its drop condition answers the state it found (R101). -/
theorem eq_of_exec_dropped {i : Instr} {s t : State} (h : exec i s = .next t)
    (hdrop : dropsAt s.cfg.lastIndex i = true) : t = s := by
  obtain ⟨hpass, -, -, -⟩ | ⟨-, rfl⟩ := exec_next_cases h
  · exact absurd hdrop (by simp [hpass])
  · rfl

/-- A presented command that answers the state it found takes one step of a run and no more. -/
theorem run_succ_presentFirst_of_exec_self {i : Instr} {s : State} (hwf : i.wellFormed = true)
    (h : exec i s = .next s) (k : Nat) :
    Host.Core.run Sys2Proof.core (k + 1) (s.presentFirst i) =
      Host.Core.run Sys2Proof.core k s :=
  run_succ_of_step ((step_of_command hwf (s.presentFirst_port i)).trans h) k

/-- Settles O39: a command that can be dropped is a command and is not INIT, so it answers, and the
state it answers is the one it found. -/
theorem droppedCommandLeavesNoMark : Obligations.DroppedCommandLeavesNoMark := by
  intro i s hvalid hdrop
  have hwf := wellFormed_of_dropsAt hdrop
  obtain ⟨t, hexec⟩ := everyCommandCompletes i s hwf hvalid (ne_init_of_dropsAt hdrop 0)
  obtain rfl := eq_of_exec_dropped hexec hdrop
  exact ⟨hexec, run_succ_presentFirst_of_exec_self hwf hexec⟩

/-! ### The command after INIT -/

theorem ne_init_of_readsLastIndex {i : Instr} (h : readsLastIndex i = true) (n : Half)
    (ty : LedType) (o : ColorOrder) : i ≠ .init n ty o := by
  rintro rfl
  cases h

theorem exec_completes_of_readsLastIndex {i : Instr} {s : State} (hreads : readsLastIndex i = true)
    (hvalid : s.cfg.valid = true) : ∃ t, exec i s = .next t := by
  refine exec_completes ?_ (fun _ => hvalid) (ne_init_of_readsLastIndex hreads 0)
  rintro rfl
  cases hreads

/-- A command other than INIT changes the state by its events alone (R17). -/
theorem exec_eq_self_iff_silent {i : Instr} {s t : State} (hi : ∀ n ty o, i ≠ .init n ty o)
    (h : exec i s = .next t) : exec i s = .next s ↔ newEvents s t = [] := by
  rw [h, Host.Outcome.next.injEq]
  constructor
  · rintro rfl
    exact newEvents_self t
  · intro hsilent
    have hcfg := exec_cfg_of_not_init hi h
    obtain ⟨c, es, -, rfl⟩ | ⟨-, rfl⟩ := exec_eq_next.1 h
    · rw [State.emit_cfg, State.setCfg_cfg] at hcfg
      rw [newEvents_setCfg_emit] at hsilent
      rw [hcfg, hsilent, State.setCfg_self, State.emit_nil]
    · rfl

/-- A command that reads `CFG.lastIndex` stays put when it is dropped or is a gradient off the strip
(R93, R102). -/
theorem exec_eq_self_iff_of_readsLastIndex {i : Instr} {s t : State}
    (hreads : readsLastIndex i = true) (h : exec i s = .next t) :
    exec i s = .next s ↔
      dropsAt s.cfg.lastIndex i = true ∨
      ∃ a e fc tc, i = .gradient a e fc tc ∧ a.toInt < e.toInt ∧
        (e.toInt < 0 ∨ (s.cfg.lastIndex.toNat : Int) < a.toInt) := by
  have hreset : i ≠ .resetchip := by
    rintro rfl
    cases hreads
  rw [exec_eq_self_iff_silent (ne_init_of_readsLastIndex hreads) h,
    silentExactlyWhenDroppedOrEmpty i s t h]
  simp [hreset]

/-- INIT answers only a count that is not reserved, and then leaves its `CFG` (R59, R63). -/
theorem exec_init_cfg {n : Half} {ty : LedType} {o : ColorOrder} {s t : State}
    (h : exec (.init n ty o) s = .next t) : n ≠ 0 ∧ t.cfg = initCfg n ty o := by
  by_cases hn : n = 0
  · rw [hn, exec_init_zero] at h; cases h
  · rw [exec_init_of_ne_zero hn] at h
    cases h
    exact ⟨hn, rfl⟩

/-- Settles O8: `CFG` after INIT is `initCfg`, valid and with a strip as long as the clamped count,
and each clause is what a command does with such a `CFG`. -/
theorem initBoundGovernsNextCommand : Obligations.InitBoundGovernsNextCommand := by
  intro s s' n ty o h
  obtain ⟨hn, hcfg⟩ := exec_init_cfg h
  have hvalid := exec_init_valid h
  have hparams := exec_params h
  have hlast : s'.cfg.lastIndex = BitVec.ofNat 8 (min n.toNat 256 - 1) := by rw [hcfg]; rfl
  have hlength : s'.cfg.lastIndex.toNat + 1 = min n.toNat 256 := by
    rw [hcfg, initCfg_lastIndex_toNat_succ hn]
  refine ⟨?reads, ?setled, ?showStrip⟩
  case reads =>
    intro i hreads
    obtain ⟨t, ht⟩ := exec_completes_of_readsLastIndex hreads hvalid
    have hoff : ∀ a : Half,
        (s'.cfg.lastIndex.toNat : Int) < a.toInt ↔ (min n.toNat 256 : Int) ≤ a.toInt := by
      omega
    refine ⟨⟨t, ht⟩, ?_⟩
    simpa only [← hlast, ← hoff] using exec_eq_self_iff_of_readsLastIndex hreads ht
  case setled =>
    intro index
    obtain ⟨-, hdrops, hexecutes⟩ := setledExecutesDropsOrRefuses s' index
    constructor
    · intro hon
      have hle : index.toNat ≤ s'.cfg.lastIndex.toNat := by omega
      exact ⟨_, hexecutes hvalid hle, by simp [newEvents, busBytes]⟩
    · intro hoff
      have habove : s'.cfg.lastIndex.toNat < index.toNat := by omega
      exact hdrops hvalid habove
  case showStrip =>
    refine ⟨_, exec_showStrip_of_valid hvalid, ?_⟩
    rw [newEvents_emit, waitTotal_showEvents, hlength, hparams]

end Sys2Proof.Machine
end

section
/-! What has no next state or changes nothing: the inputs that INIT and GRADIENT refuse or
drop, and the port and the reset state where no command is taken (spec/10_state.md R15, R18, R19;
spec/40_initialize.md R63; spec/45_gradient.md R90, R91; spec/60_exceptions.md R113). -/

namespace Sys2Proof.Machine

/-- Settles O6: INIT's first test is of the count, before anything reads the state. -/
theorem initRefusesZeroCount : Obligations.InitRefusesZeroCount :=
  fun s t o => exec_init_zero t o s

/-- Settles O26: of the three stages of R90 the reversed range is the first and reads no `CFG`. -/
theorem gradientDropsReversedRange : Obligations.GradientDropsReversedRange :=
  fun _ _ _ fc tc => exec_gradient_of_reversed fc tc

/-- Settles O29: of the three stages of R90 the span reads `CFG.lastIndex`, which is refused before
INIT. -/
theorem gradientRefusedBeforeInit : Obligations.GradientRefusedBeforeInit := by
  intro s a e fc tc hinvalid hspan
  rw [exec_eq_answer, State.answer_eq_refused]
  exact gradientResponse_eq_refused.2 ⟨rfl, hspan, hinvalid⟩

/-! ### The port where no command is taken -/

theorem step_of_port_nil {s : State} (h : s.port = []) : step s = .next s := by
  simp [step, State.fetch, h]

/-- As an unmarked head, a term that is none of the 17 commands is refused (R41, R55). -/
theorem step_of_not_wellFormed {s : State} {i : Instr} {rest : List Presented}
    (hw : i.wellFormed = false) (hp : s.port = { cmd := i, overlapped := false } :: rest) :
    step s = .refused .notACommand := by
  simp [step, State.fetch, hp, hw]

/-- A second command presented behind a head marks that head, so neither has a next state (R113). -/
theorem step_presentOverlapping {s : State} (h : s.port ≠ []) (i : Instr) :
    step (s.presentOverlapping i) = .refused .concurrent := by
  obtain ⟨p, rest, hp⟩ := List.exists_cons_of_ne_nil h
  have hport : (s.presentOverlapping i).port =
      { p with overlapped := true } :: { cmd := i, overlapped := false } :: rest := by
    rw [State.presentOverlapping_port, hp, overlapHead]
  exact step_of_overlapped hport rfl

/-- Settles O44: one case of the port for each clause. -/
theorem portIdlesOrRefuses : Obligations.PortIdlesOrRefuses :=
  ⟨fun _ => step_of_port_nil, fun _ _ _ hp => step_of_overlapped hp rfl,
    fun _ i hp => step_presentOverlapping hp i, fun _ _ _ => step_of_not_wellFormed⟩

/-- Settles O47: the fields of `State.resetWith` are the values of D3, and its empty port makes the
first step idle. -/
theorem resetLeavesIdleEncoder : Obligations.ResetLeavesIdleEncoder := by
  refine ⟨State.resetWith_params Config.params, fun P => ?_⟩
  have hport := State.resetWith_port P
  have hidle : step (State.resetWith P) = .next (State.resetWith P) := step_of_port_nil hport
  exact ⟨rfl, rfl, rfl, rfl, rfl, hport, hidle⟩

end Sys2Proof.Machine
end
